-- ==== Sys2Proof/Word.lean ====
section
/-! DEFINITION. The block's word types (spec/00_scope.md R13: every value is an unsigned number of a fixed
width) and the small sets of names the spec gives. -/

namespace Sys2Proof

/-- A u8 (R13): a data byte, a register byte, a byte of a plane. -/
abbrev Byte := BitVec 8

/-- A u32 (R13): a transaction word (R102), a frequency in Hz (R48). -/
abbrev Word := BitVec 32

/-- The `addr[23:8]` field of a transaction word (R102), before the masking of R71. -/
abbrev BusAddr := BitVec 16

/-- A PixelPlane address, PIXEL_ADDR_BITS = 14 bits (R11, R33). -/
abbrev PixAddr := BitVec 14

/-- A ColorPlane address, COLOR_ADDR_BITS = 12 bits (R12, R34). -/
abbrev ColAddr := BitVec 12

/-- A colour index, COLOR_INDEX_BITS = 4 bits (R11, R35). -/
abbrev Index := BitVec 4

/-- `deathPhase` (R47): the source's deathSoundPhase. `none` is the spec's `None`. -/
inductive DeathPhase where
  | none
  | armedFake
  | armedReal
  | playing
deriving DecidableEq, Repr, Inhabited

/-- `pending` (R46): the state of the confirmation protocol. -/
inductive Pending where
  | idle
  | awaitDeathConfirm
  | awaitLaserResetConfirm
deriving DecidableEq, Repr, Inhabited

/-- What a TICK returns (R16, R200). -/
inductive Request where
  | none
  | nmi
  | irq (vector : Byte)
deriving DecidableEq, Repr

/-- A sample-player command (R16). Channels and sample identifiers are the source's `int`. -/
inductive Command where
  | startSample (channel : Int) (sample : Int)
  | setFrequency (channel : Int) (hz : BitVec 32)
  | setVolume (channel : Int) (level : Byte)
deriving DecidableEq, Repr

/-- One entry of the block's ordered output (R15 `Emit`, R16): the value a read returns, the request a TICK
returns, or a sample-player command. -/
inductive Output where
  | value (v : Byte)
  | request (r : Request)
  | command (c : Command)
deriving DecidableEq, Repr

end Sys2Proof
end

