-- ==== Sys2Proof/Config.lean ====
section
/-! DEFINITION. What the spec fixes (spec/00_scope.md R11), what it leaves to the implementation (R12) and the
values it does not fix (R15 `Draw`, R251). Every open one is a constant with no body: nothing can be proved of
its value, so a claim holds whatever it is (log entries 8 to 12, 20). -/

namespace Sys2Proof

/-! ## Values the source fixes (R11) -/

/-- COLUMN_BITS = 5: 32 bytes, 256 pixels, per row. -/
def Config.columns : Nat := 256

/-- FB_ROWS = 2^PIXEL_ADDR_BITS / 32 = 512 (R12, decision D5). -/
def Config.rows : Nat := 512

/-- The PixelPlane's size in bytes (R33). -/
def Config.pixBytes : Nat := 16384

/-- The ColorPlane's size in bytes (R34, decision D4). -/
def Config.colBytes : Nat := 4096

/-- BACKGROUND_INDEX. -/
def Config.backgroundIndex : Index := 0

/-- LASER_CODE. -/
def Config.laserCode : Byte := 70

/-- DEATH_ARM_BYTE. -/
def Config.deathArmByte : Byte := 172

/-- CONFIRM_BYTE. -/
def Config.confirmByte : Byte := 25

/-- LASER_RESET_CODE. -/
def Config.laserResetCode : Byte := 69

/-- LASER_RESET_ARM_BYTE. -/
def Config.laserResetArmByte : Byte := 50

/-- NOISE_RESET_SENTINEL. -/
def Config.noiseResetSentinel : Byte := 64

/-! ## Parameters the source leaves open (R12) -/

/-- IRQ_VECTOR: the byte emitted with a maskable request (D10). -/
opaque Config.irqVector : Byte

/-- NMI_PORT_READ_VALUE: the fixed byte a read of the NMI enable or disable port returns (D12). -/
opaque Config.nmiPortReadValue : Byte

/-- VOICE_INDEX_MASK: the mask of an offset-4 voice write (D18). -/
opaque Config.voiceIndexMask : Byte

/-- PITCH_TABLE: the eight pitch presets in Hz (D21). The index type gives the table exactly 8 entries, the
constraint of R251. -/
opaque Config.pitchTable : BitVec 3 → BitVec 32

/-- VOICE_FREQ_RESET: voiceFrequencyHz after reset (D16). -/
opaque Config.voiceFreqReset : BitVec 32

/-- VOICE_VOLUME_RESET: voiceVolume after reset (D16). -/
opaque Config.voiceVolumeReset : Byte

/-- VOICE_CHANNEL (D28). -/
opaque Config.voiceChannel : Int

/-- EFFECT_CHANNEL (D28). -/
opaque Config.effectChannel : Int

/-- VOICE_SAMPLE_ID: the sample identifier of a voice index (D28). -/
opaque Config.voiceSampleId : Byte → Int

/-- SAMPLE_REAL_DEATH (D28). -/
opaque Config.sampleRealDeath : Int

/-- The members of NOISE_BAND other than 69 and 70 (D25). -/
opaque Config.noiseBandRest : Byte → Bool

/-- NOISE_BAND: the valid "current game sound" codes. Its constraint, that 69 and 70 are members (R251, D25),
is built in, and every band that meets it is one of these (log entry 12). -/
def Config.noiseBand (v : Byte) : Bool :=
  v == Config.laserResetCode || v == Config.laserCode || Config.noiseBandRest v

/-- NOISE_SAMPLE: the playback request of a changed noise code, a channel and a sample identifier (D26). -/
opaque Config.noiseSample : Byte → DeathPhase → Option (Int × Int)

/-- NOISE_PHASE: the death-phase update of a changed noise code (D26; the default is the identity). -/
opaque Config.noisePhase : Byte → DeathPhase → DeathPhase

/-- VISIBLE_WINDOW: whether the display shows a row (D5). -/
opaque Config.visibleRow : Nat → Bool

/-! ## Draws: values the model does not fix (R15, R251) -/

/-- COLOR_RESET: what a ColorPlane byte holds after a reset, until it is written (R34, D15). The first argument
numbers the reset's draw. -/
opaque Config.colorReset : Nat → Nat → Byte

/-- UNDEFINED_READ: the value of a read the source does not define (D37). The argument numbers the draw. -/
opaque Config.undefinedRead : Nat → Byte

end Sys2Proof
end

