-- ==== Sys2Proof/Syntax.lean ====
section
/-! DEFINITION. The block's transactions and host steps, one constructor per row of spec/opcode_table.json
(spec/30_encoding.md R100), and what the outside presents to the block for one step. -/

namespace Sys2Proof

/-- One row of the opcode table. A plane address is the whole 16-bit address field of the transaction word
(R102); the meaning masks it (R71). The last sixteen are the logic operations, the sub-operations of BLIT.W:
they carry the other fields of the control byte that selects them (R103: flip, shift, drop) and the operands of
the blit write they are part of (R163: a, v); log entries 2 and 3. -/
inductive Instr where
  /-- PIX.W a, v (R140). -/
  | pixW (a : BusAddr) (v : Byte)
  /-- PIX.R a (R148). -/
  | pixR (a : BusAddr)
  /-- BLIT.W a, v (R163). -/
  | blitW (a : BusAddr) (v : Byte)
  /-- BLIT.R a (R182). -/
  | blitR (a : BusAddr)
  /-- COL.W c, v (R146). -/
  | colW (c : BusAddr) (v : Byte)
  /-- COL.R c (R149). -/
  | colR (c : BusAddr)
  /-- CTRL.W v (R160). -/
  | ctrlW (v : Byte)
  /-- CTRL.R (R183). -/
  | ctrlR
  /-- COLL.R (R181). -/
  | collR
  /-- COLL.W v (R183). -/
  | collW (v : Byte)
  /-- IRQEN.W v (R202). -/
  | irqenW (v : Byte)
  /-- IRQEN.R (R207). -/
  | irqenR
  /-- NMIEN.W v (R203). -/
  | nmienW (v : Byte)
  /-- NMIEN.R (R205). -/
  | nmienR
  /-- NMIDIS.W v (R204). -/
  | nmidisW (v : Byte)
  /-- NMIDIS.R (R206). -/
  | nmidisR
  /-- SND.W 0, v (R221). -/
  | sndW0 (v : Byte)
  /-- SND.W 1, v (R221). -/
  | sndW1 (v : Byte)
  /-- SND.W 2, v (R221). -/
  | sndW2 (v : Byte)
  /-- SND.W 3, v: ARM (R222). -/
  | sndW3Arm (v : Byte)
  /-- SND.W 5, v: CONFIRM (R225). -/
  | sndW5Confirm (v : Byte)
  /-- SND.W 6, v: NOISE (R228). -/
  | sndW6Noise (v : Byte)
  /-- SND.W 7, v (R229). -/
  | sndW7 (v : Byte)
  /-- SND.W 4, v with v[6] = 0: VOICE (R223). -/
  | sndW4Voice (v : Byte)
  /-- SND.W 4, v with v[6] = 1: PITCH (R224). -/
  | sndW4Pitch (v : Byte)
  /-- SND.R o (R231). -/
  | sndR (o : BitVec 3)
  /-- TICK (R200). -/
  | tick
  /-- AUDIO (playV, playE) (R230): the operands are the sample player's isPlaying answers (R117). -/
  | audio (playV playE : Bool)
  /-- REFRESH (R147). -/
  | refresh
  /-- RESET (R280). -/
  | reset
  /-- op 0x0, COPY (R165). -/
  | op0Copy (flip : Bool) (shift : BitVec 2) (drop : Bool) (a : BusAddr) (v : Byte)
  /-- op 0x1, OR (R166). -/
  | op1Or (flip : Bool) (shift : BitVec 2) (drop : Bool) (a : BusAddr) (v : Byte)
  /-- op 0x2, OR-NOT-D (R167). -/
  | op2OrNotD (flip : Bool) (shift : BitVec 2) (drop : Bool) (a : BusAddr) (v : Byte)
  /-- op 0x3, SET (R168). -/
  | op3Set (flip : Bool) (shift : BitVec 2) (drop : Bool) (a : BusAddr) (v : Byte)
  /-- op 0x4, AND (R169). -/
  | op4And (flip : Bool) (shift : BitVec 2) (drop : Bool) (a : BusAddr) (v : Byte)
  /-- op 0x5, KEEP (R170). -/
  | op5Keep (flip : Bool) (shift : BitVec 2) (drop : Bool) (a : BusAddr) (v : Byte)
  /-- op 0x6, XNOR (R171). -/
  | op6Xnor (flip : Bool) (shift : BitVec 2) (drop : Bool) (a : BusAddr) (v : Byte)
  /-- op 0x7, NOT-S-OR (R172). -/
  | op7NotSOr (flip : Bool) (shift : BitVec 2) (drop : Bool) (a : BusAddr) (v : Byte)
  /-- op 0x8, AND-NOT-D (R173). -/
  | op8AndNotD (flip : Bool) (shift : BitVec 2) (drop : Bool) (a : BusAddr) (v : Byte)
  /-- op 0x9, XOR (R174). -/
  | op9Xor (flip : Bool) (shift : BitVec 2) (drop : Bool) (a : BusAddr) (v : Byte)
  /-- op 0xA, NOT-D (R175). -/
  | opANotD (flip : Bool) (shift : BitVec 2) (drop : Bool) (a : BusAddr) (v : Byte)
  /-- op 0xB, NAND (R176). -/
  | opBNand (flip : Bool) (shift : BitVec 2) (drop : Bool) (a : BusAddr) (v : Byte)
  /-- op 0xC, CLEAR (R177). -/
  | opCClear (flip : Bool) (shift : BitVec 2) (drop : Bool) (a : BusAddr) (v : Byte)
  /-- op 0xD, NOT-S-AND (R178). -/
  | opDNotSAnd (flip : Bool) (shift : BitVec 2) (drop : Bool) (a : BusAddr) (v : Byte)
  /-- op 0xE, NOR (R179). -/
  | opENor (flip : Bool) (shift : BitVec 2) (drop : Bool) (a : BusAddr) (v : Byte)
  /-- op 0xF, NOT-S (R180). -/
  | opFNotS (flip : Bool) (shift : BitVec 2) (drop : Bool) (a : BusAddr) (v : Byte)
deriving DecidableEq, Repr

/-- What the outside presents to the block for one step (R81, R117): a transaction word (R102) and the sample
player's answers to isPlaying(VOICE_CHANNEL) and isPlaying(EFFECT_CHANNEL), which only AUDIO looks at (R230;
free inputs, R251; log entry 10). -/
structure Access where
  word : Word
  playV : Bool
  playE : Bool
deriving DecidableEq, Repr

/-- The two encoding formats of spec/opcode_table.json. -/
inductive Format where
  /-- TXN: a 32-bit transaction word (R102). -/
  | txn
  /-- CTRL: a control byte (R103) in bits 7:0; the model puts the blit's data byte in bits 15:8 and its address
  in bits 31:16, which the table gives no bits (log entry 3). -/
  | ctrl
deriving DecidableEq, Repr

/-- An instruction's words: its format and what the outside presents. -/
structure Encoded where
  format : Format
  access : Access
deriving DecidableEq, Repr

end Sys2Proof
end

