-- ==== Sys2Proof/WellFormed.lean ====
section
/-! DEFINITION. Which instructions are well formed, and which configurations the spec accepts. -/

namespace Sys2Proof

/-- Bit 6 of an offset-4 sound byte tells VOICE from PITCH (spec/30_encoding.md R112, R113); every other operand
of every row is legal at every value (R115). -/
def Instr.wellFormed : Instr → Bool
  | .sndW4Voice v => !v.getLsbD 6
  | .sndW4Pitch v => v.getLsbD 6
  | .pixW _ _ | .pixR _ | .blitW _ _ | .blitR _ | .colW _ _ | .colR _ => true
  | .ctrlW _ | .ctrlR | .collR | .collW _ => true
  | .irqenW _ | .irqenR | .nmienW _ | .nmienR | .nmidisW _ | .nmidisR => true
  | .sndW0 _ | .sndW1 _ | .sndW2 _ | .sndW3Arm _ | .sndW5Confirm _ | .sndW6Noise _ | .sndW7 _ | .sndR _ => true
  | .tick | .audio _ _ | .refresh | .reset => true
  | .op0Copy _ _ _ _ _ | .op1Or _ _ _ _ _ | .op2OrNotD _ _ _ _ _ | .op3Set _ _ _ _ _ => true
  | .op4And _ _ _ _ _ | .op5Keep _ _ _ _ _ | .op6Xnor _ _ _ _ _ | .op7NotSOr _ _ _ _ _ => true
  | .op8AndNotD _ _ _ _ _ | .op9Xor _ _ _ _ _ | .opANotD _ _ _ _ _ | .opBNand _ _ _ _ _ => true
  | .opCClear _ _ _ _ _ | .opDNotSAnd _ _ _ _ _ | .opENor _ _ _ _ _ | .opFNotS _ _ _ _ _ => true

/-- The two parameters of R12 that carry a constraint (spec/60_exceptions.md R251), as plain data. -/
structure ConfigRecord where
  noiseBand : List Byte
  pitchTable : List (BitVec 32)
deriving DecidableEq, Repr

/-- R251: NOISE_BAND holds 69 and 70, and PITCH_TABLE has 8 entries. -/
def ConfigRecord.wellFormed (c : ConfigRecord) : Bool :=
  c.noiseBand.contains Config.laserResetCode && c.noiseBand.contains Config.laserCode &&
    c.pitchTable.length == 8

/-- The model's own parameters (Config) as such a record. -/
def ConfigRecord.inForce : ConfigRecord where
  noiseBand := ((List.range 256).map (BitVec.ofNat 8)).filter Config.noiseBand
  pitchTable := (List.range 8).map fun i => Config.pitchTable (BitVec.ofNat 3 i)

end Sys2Proof
end

