-- ==== Sys2Proof/Decode.lean ====
section
/-! DEFINITION. The decoder, total on any word and rejecting by name, and after it the encoder
(spec/30_encoding.md R102 to R113). -/

namespace Sys2Proof

/-- Why a transaction word names no transaction (log entry 6). -/
inductive DecodeError where
  /-- R102: ports 13 to 127 are "none". -/
  | noSuchPort
  /-- R102: "dir is 0 for a write or host step"; TICK, AUDIO, REFRESH and RESET have no read. -/
  | readOfHostStep
deriving DecidableEq, Repr

/-- `dir`, bit 31 of a transaction word: a read (R102). -/
def wordIsRead (w : Word) : Bool := w.getLsbD 31

/-- `port`, bits 30:24 of a transaction word (R102). -/
def wordPort (w : Word) : Nat := (w.extractLsb' 24 7).toNat

/-- `addr[23:8]` of a transaction word (R102). -/
def wordAddr (w : Word) : BusAddr := w.extractLsb' 8 16

/-- `data[7:0]` of a transaction word (R102). -/
def wordData (w : Word) : Byte := w.extractLsb' 0 8

/-- The sound offset of a transaction word: bits 2:0 of its address (R102, R111). -/
def wordOffset (w : Word) : BitVec 3 := w.extractLsb' 8 3

/-- SND.W by offset, and at offset 4 by bit 6 of the data (R112, R113). -/
def decodeSoundWrite (o : BitVec 3) (v : Byte) : Instr :=
  match o.toNat with
  | 0 => .sndW0 v
  | 1 => .sndW1 v
  | 2 => .sndW2 v
  | 3 => .sndW3Arm v
  | 4 => if v.getLsbD 6 then .sndW4Pitch v else .sndW4Voice v
  | 5 => .sndW5Confirm v
  | 6 => .sndW6Noise v
  | _ => .sndW7 v

/-- A write or a host step, by port (R102). -/
def decodeWrite (x : Access) : Except DecodeError Instr :=
  match wordPort x.word with
  | 0 => .ok (.pixW (wordAddr x.word) (wordData x.word))
  | 1 => .ok (.blitW (wordAddr x.word) (wordData x.word))
  | 2 => .ok (.colW (wordAddr x.word) (wordData x.word))
  | 3 => .ok (.ctrlW (wordData x.word))
  | 4 => .ok (.collW (wordData x.word))
  | 5 => .ok (.irqenW (wordData x.word))
  | 6 => .ok (.nmienW (wordData x.word))
  | 7 => .ok (.nmidisW (wordData x.word))
  | 8 => .ok (decodeSoundWrite (wordOffset x.word) (wordData x.word))
  | 9 => .ok .tick
  | 10 => .ok (.audio x.playV x.playE)
  | 11 => .ok .refresh
  | 12 => .ok .reset
  | _ => .error .noSuchPort

/-- A read, by port (R102). -/
def decodeRead (x : Access) : Except DecodeError Instr :=
  match wordPort x.word with
  | 0 => .ok (.pixR (wordAddr x.word))
  | 1 => .ok (.blitR (wordAddr x.word))
  | 2 => .ok (.colR (wordAddr x.word))
  | 3 => .ok .ctrlR
  | 4 => .ok .collR
  | 5 => .ok .irqenR
  | 6 => .ok .nmienR
  | 7 => .ok .nmidisR
  | 8 => .ok (.sndR (wordOffset x.word))
  | 9 | 10 | 11 | 12 => .error .readOfHostStep
  | _ => .error .noSuchPort

/-- A transaction word (format TXN). -/
def decodeAccess (x : Access) : Except DecodeError Instr :=
  if wordIsRead x.word then decodeRead x else decodeWrite x

/-- The logic operation a control byte selects for a blit write of v at a: `op = ctrl[7:4]`, `flip = ctrl[3]`,
`shift = ctrl[2:1]`, `drop = ctrl[0]` (R103, R105). Every byte selects one. -/
def decodeControl (ctl : Byte) (a : BusAddr) (v : Byte) : Instr :=
  let flip := ctl.getLsbD 3
  let shift := ctl.extractLsb' 1 2
  let drop := ctl.getLsbD 0
  match (ctl.extractLsb' 4 4).toNat with
  | 0 => .op0Copy flip shift drop a v
  | 1 => .op1Or flip shift drop a v
  | 2 => .op2OrNotD flip shift drop a v
  | 3 => .op3Set flip shift drop a v
  | 4 => .op4And flip shift drop a v
  | 5 => .op5Keep flip shift drop a v
  | 6 => .op6Xnor flip shift drop a v
  | 7 => .op7NotSOr flip shift drop a v
  | 8 => .op8AndNotD flip shift drop a v
  | 9 => .op9Xor flip shift drop a v
  | 10 => .opANotD flip shift drop a v
  | 11 => .opBNand flip shift drop a v
  | 12 => .opCClear flip shift drop a v
  | 13 => .opDNotSAnd flip shift drop a v
  | 14 => .opENor flip shift drop a v
  | _ => .opFNotS flip shift drop a v

/-- A CTRL-format word: the control byte in bits 7:0, the blit's data in 15:8 and address in 31:16 (log entry 3). -/
def decodeControlWord (w : Word) : Instr :=
  decodeControl (w.extractLsb' 0 8) (w.extractLsb' 16 16) (w.extractLsb' 8 8)

/-- The decoder. -/
def decode (e : Encoded) : Except DecodeError Instr :=
  match e.format with
  | .txn => decodeAccess e.access
  | .ctrl => .ok (decodeControlWord e.access.word)

/-! ## The encoder -/

/-- A transaction word: `dir << 7 | port` in bits 31:24, address in 23:8, data in 7:0 (R102). -/
def txnWord (dir : Bool) (port : BitVec 7) (addr : BusAddr) (data : Byte) : Word :=
  BitVec.ofBool dir ++ port ++ addr ++ data

/-- A write or host step as the outside presents it. -/
def encodeWrite (port : BitVec 7) (addr : BusAddr) (data : Byte) : Encoded :=
  ⟨.txn, ⟨txnWord false port addr data, false, false⟩⟩

/-- A read as the outside presents it: the data field is 0. -/
def encodeRead (port : BitVec 7) (addr : BusAddr) : Encoded :=
  ⟨.txn, ⟨txnWord true port addr 0, false, false⟩⟩

/-- A sound write: the offset in the low three address bits (R102). -/
def encodeSound (o : BitVec 3) (v : Byte) : Encoded := encodeWrite 8 (o.setWidth 16) v

/-- A control byte: op, flip, shift, drop (R103). -/
def controlByte (op : BitVec 4) (flip : Bool) (shift : BitVec 2) (drop : Bool) : Byte :=
  op ++ BitVec.ofBool flip ++ shift ++ BitVec.ofBool drop

/-- A logic operation: its control byte, with the blit's operands above it. -/
def encodeLogic (op : BitVec 4) (flip : Bool) (shift : BitVec 2) (drop : Bool) (a : BusAddr) (v : Byte) : Encoded :=
  ⟨.ctrl, ⟨a ++ v ++ controlByte op flip shift drop, false, false⟩⟩

/-- The words of an instruction. -/
def encode : Instr → Encoded
  | .pixW a v => encodeWrite 0 a v
  | .pixR a => encodeRead 0 a
  | .blitW a v => encodeWrite 1 a v
  | .blitR a => encodeRead 1 a
  | .colW c v => encodeWrite 2 c v
  | .colR c => encodeRead 2 c
  | .ctrlW v => encodeWrite 3 0 v
  | .ctrlR => encodeRead 3 0
  | .collR => encodeRead 4 0
  | .collW v => encodeWrite 4 0 v
  | .irqenW v => encodeWrite 5 0 v
  | .irqenR => encodeRead 5 0
  | .nmienW v => encodeWrite 6 0 v
  | .nmienR => encodeRead 6 0
  | .nmidisW v => encodeWrite 7 0 v
  | .nmidisR => encodeRead 7 0
  | .sndW0 v => encodeSound 0 v
  | .sndW1 v => encodeSound 1 v
  | .sndW2 v => encodeSound 2 v
  | .sndW3Arm v => encodeSound 3 v
  | .sndW4Voice v => encodeSound 4 v
  | .sndW4Pitch v => encodeSound 4 v
  | .sndW5Confirm v => encodeSound 5 v
  | .sndW6Noise v => encodeSound 6 v
  | .sndW7 v => encodeSound 7 v
  | .sndR o => encodeRead 8 (o.setWidth 16)
  | .tick => encodeWrite 9 0 0
  | .audio playV playE => ⟨.txn, ⟨txnWord false 10 0 0, playV, playE⟩⟩
  | .refresh => encodeWrite 11 0 0
  | .reset => encodeWrite 12 0 0
  | .op0Copy flip shift drop a v => encodeLogic 0x0 flip shift drop a v
  | .op1Or flip shift drop a v => encodeLogic 0x1 flip shift drop a v
  | .op2OrNotD flip shift drop a v => encodeLogic 0x2 flip shift drop a v
  | .op3Set flip shift drop a v => encodeLogic 0x3 flip shift drop a v
  | .op4And flip shift drop a v => encodeLogic 0x4 flip shift drop a v
  | .op5Keep flip shift drop a v => encodeLogic 0x5 flip shift drop a v
  | .op6Xnor flip shift drop a v => encodeLogic 0x6 flip shift drop a v
  | .op7NotSOr flip shift drop a v => encodeLogic 0x7 flip shift drop a v
  | .op8AndNotD flip shift drop a v => encodeLogic 0x8 flip shift drop a v
  | .op9Xor flip shift drop a v => encodeLogic 0x9 flip shift drop a v
  | .opANotD flip shift drop a v => encodeLogic 0xA flip shift drop a v
  | .opBNand flip shift drop a v => encodeLogic 0xB flip shift drop a v
  | .opCClear flip shift drop a v => encodeLogic 0xC flip shift drop a v
  | .opDNotSAnd flip shift drop a v => encodeLogic 0xD flip shift drop a v
  | .opENor flip shift drop a v => encodeLogic 0xE flip shift drop a v
  | .opFNotS flip shift drop a v => encodeLogic 0xF flip shift drop a v

/-! ## The opcode table's numbering -/

/-- A row of the opcode table as the table numbers its bits: rows of up to 8 bits are the CTRL format, the rest
the TXN format; every bit above nbits is 0, and so are the isPlaying answers (log entry 10). -/
def tableEncoded (nbits w : Nat) : Encoded :=
  ⟨if nbits ≤ 8 then .ctrl else .txn, ⟨BitVec.ofNat 32 (w % 2 ^ nbits), false, false⟩⟩

/-- The instruction the decoder reads from an opcode-table word. -/
def decodeTableWord (nbits w : Nat) : Option Instr :=
  match decode (tableEncoded nbits w) with
  | .ok i => some i
  | .error _ => none

/-- The row of spec/opcode_table.json an instruction belongs to: its mask and its match. -/
def tableRow : Instr → Word × Word
  | .pixW _ _ => (0xFF000000, 0x00000000)
  | .pixR _ => (0xFF000000, 0x80000000)
  | .blitW _ _ => (0xFF000000, 0x01000000)
  | .blitR _ => (0xFF000000, 0x81000000)
  | .colW _ _ => (0xFF000000, 0x02000000)
  | .colR _ => (0xFF000000, 0x82000000)
  | .ctrlW _ => (0xFF000000, 0x03000000)
  | .ctrlR => (0xFF000000, 0x83000000)
  | .collR => (0xFF000000, 0x84000000)
  | .collW _ => (0xFF000000, 0x04000000)
  | .irqenW _ => (0xFF000000, 0x05000000)
  | .irqenR => (0xFF000000, 0x85000000)
  | .nmienW _ => (0xFF000000, 0x06000000)
  | .nmienR => (0xFF000000, 0x86000000)
  | .nmidisW _ => (0xFF000000, 0x07000000)
  | .nmidisR => (0xFF000000, 0x87000000)
  | .sndW0 _ => (0xFF000700, 0x08000000)
  | .sndW1 _ => (0xFF000700, 0x08000100)
  | .sndW2 _ => (0xFF000700, 0x08000200)
  | .sndW3Arm _ => (0xFF000700, 0x08000300)
  | .sndW5Confirm _ => (0xFF000700, 0x08000500)
  | .sndW6Noise _ => (0xFF000700, 0x08000600)
  | .sndW7 _ => (0xFF000700, 0x08000700)
  | .sndW4Voice _ => (0xFF000740, 0x08000400)
  | .sndW4Pitch _ => (0xFF000740, 0x08000440)
  | .sndR _ => (0xFF000000, 0x88000000)
  | .tick => (0xFF000000, 0x09000000)
  | .audio _ _ => (0xFF000000, 0x0A000000)
  | .refresh => (0xFF000000, 0x0B000000)
  | .reset => (0xFF000000, 0x0C000000)
  | .op0Copy _ _ _ _ _ => (0xF0, 0x00)
  | .op1Or _ _ _ _ _ => (0xF0, 0x10)
  | .op2OrNotD _ _ _ _ _ => (0xF0, 0x20)
  | .op3Set _ _ _ _ _ => (0xF0, 0x30)
  | .op4And _ _ _ _ _ => (0xF0, 0x40)
  | .op5Keep _ _ _ _ _ => (0xF0, 0x50)
  | .op6Xnor _ _ _ _ _ => (0xF0, 0x60)
  | .op7NotSOr _ _ _ _ _ => (0xF0, 0x70)
  | .op8AndNotD _ _ _ _ _ => (0xF0, 0x80)
  | .op9Xor _ _ _ _ _ => (0xF0, 0x90)
  | .opANotD _ _ _ _ _ => (0xF0, 0xA0)
  | .opBNand _ _ _ _ _ => (0xF0, 0xB0)
  | .opCClear _ _ _ _ _ => (0xF0, 0xC0)
  | .opDNotSAnd _ _ _ _ _ => (0xF0, 0xD0)
  | .opENor _ _ _ _ _ => (0xF0, 0xE0)
  | .opFNotS _ _ _ _ _ => (0xF0, 0xF0)

end Sys2Proof
end

