-- ==== Sys2Proof/Machine/State.lean ====
section
/-! DEFINITION. The whole state of the block (spec/10_state.md R30), as plain data, its value after reset, and why
a step can stop. The state is held as the source recommends, in structures owned by one unit each (R30). -/

namespace Sys2Proof.Machine

/-- FrameStore: the two planes and the framebuffer (R33, R34, R35). Each is a list of (address, value) pairs,
addresses strictly rising, no entry equal to what an unlisted address reads as (Memory.wf in Machine/Ops.lean).
-/
structure FrameStore where
  /-- PixelPlane (R33): 16384 bytes. -/
  pix : List Host.Cell
  /-- ColorPlane (R34): 4096 bytes. -/
  col : List Host.Cell
  /-- The model's own: which draw the colour bytes not written since the last reset come from (log entry 9). -/
  colDraw : Nat
  /-- Framebuffer (R35): the colour index at row y, column x under the key 256 * y + x. -/
  fb : List (Nat × Index)
deriving DecidableEq, Repr

/-- Blitter (R36, R37, R38). -/
structure Blitter where
  ctrl : Byte
  latch : Byte
  collision : Bool
deriving DecidableEq, Repr

/-- InterruptSequencer (R39 to R42). -/
structure Sequencer where
  phase : BitVec 3
  irqEnabled : Bool
  nmiEnabled : Bool
  endOfScreen : Bool
deriving DecidableEq, Repr

/-- SoundTriggerDecoder (R44 to R50). -/
structure Sound where
  lastNoiseCode : Byte
  lastVoiceCode : Byte
  pending : Pending
  deathPhase : DeathPhase
  voiceFrequencyHz : BitVec 32
  voiceVolume : Byte
  voiceBusy : Bool
deriving DecidableEq, Repr

/-- The machine: the four units, and the model's own fields for the outside (log entries 1, 7, 8). -/
structure State where
  frame : FrameStore
  blit : Blitter
  seq : Sequencer
  sound : Sound
  /-- The accesses the host has issued and the block has not taken, oldest first (R81). -/
  host : List Access
  /-- The ordered outputs so far (R15, R16). -/
  out : List Output
  /-- How many draws have been taken (R15). -/
  draws : Nat
deriving DecidableEq, Repr

/-- The block raises no fault (spec/60_exceptions.md R250, R251: "a model of it has no fault outcome for any
transaction"), so no fault can be written down. Safe: nothing is left out. -/
inductive Fault : Type
deriving DecidableEq, Repr

/-- Why a step answers with no next state. -/
inductive Refusal where
  /-- An instruction without a meaning in this model; raised by exec's arm for it. No arm raises it now. Safe. -/
  | notModelled (mnemonic : String)
  /-- Raised by step: the next access names no transaction, its port is "none" (spec/30_encoding.md R102;
  log entry 6). Safe: the spec gives such a word no effect. -/
  | noSuchPort
  /-- Raised by step: the next access reads a host-step port, and R102 gives a host step dir 0 only
  (log entry 6). Safe. -/
  | readOfHostStep
  /-- Raised by configure: a parameter breaks its stated constraint (R251). Safe. -/
  | badConfiguration
deriving DecidableEq, Repr

/-- After reset (spec/70_reset_and_hazards.md R280 and the reset values of R33 to R50). The voice frequency and
volume are the parameters VOICE_FREQ_RESET and VOICE_VOLUME_RESET; the ColorPlane is draw 0 of COLOR_RESET. The
fields host, out and draws are the model's own (log entries 1, 7, 8). -/
def State.reset : State where
  frame := { pix := [], col := [], colDraw := 0, fb := [] }
  blit := { ctrl := 0x00, latch := 0x00, collision := false }
  seq := { phase := 0, irqEnabled := false, nmiEnabled := false, endOfScreen := false }
  sound :=
    { lastNoiseCode := 0x00, lastVoiceCode := 0x00, pending := .idle, deathPhase := .none,
      voiceFrequencyHz := Config.voiceFreqReset, voiceVolume := Config.voiceVolumeReset, voiceBusy := false }
  host := []
  out := []
  draws := 1

end Sys2Proof.Machine
end

