-- ==== Sys2Proof/Machine/Ops.lean ====
section
/-! DEFINITION. The named operations over the memories, the registers' owners and the outputs. Every access to a
plane, every output and every draw goes through one of these. -/

namespace Sys2Proof.Machine

/-! ## Memory in canonical form -/

/-- What address k holds: the listed value, else what an unlisted address reads as. -/
def Memory.read {β : Type} (unlisted : Nat → β) : List (Nat × β) → Nat → β
  | [], k => unlisted k
  | c :: m, k => if c.1 = k then c.2 else Memory.read unlisted m k

/-- List value v at address k, in address order. -/
def Memory.put {β : Type} : List (Nat × β) → Nat → β → List (Nat × β)
  | [], k, v => [(k, v)]
  | c :: m, k, v =>
    if k < c.1 then (k, v) :: c :: m
    else if k = c.1 then (k, v) :: m
    else c :: Memory.put m k v

/-- List nothing at address k. -/
def Memory.erase {β : Type} : List (Nat × β) → Nat → List (Nat × β)
  | [], _ => []
  | c :: m, k => if c.1 = k then Memory.erase m k else c :: Memory.erase m k

/-- Write value v at address k, keeping the form: writing what an unlisted address reads as removes the entry. -/
def Memory.write {β : Type} [DecidableEq β] (unlisted : Nat → β) (m : List (Nat × β)) (k : Nat) (v : β) :
    List (Nat × β) :=
  if v = unlisted k then Memory.erase m k else Memory.put m k v

/-- The canonical form: addresses strictly rising and below the size, no entry equal to what an unlisted address
reads as. -/
abbrev Memory.wf {β : Type} [DecidableEq β] (size : Nat) (unlisted : Nat → β) (m : List (Nat × β)) : Prop :=
  m.Pairwise (fun c d => c.1 < d.1) ∧ ∀ c ∈ m, c.1 < size ∧ c.2 ≠ unlisted c.1

/-! ## What an unlisted address reads as -/

/-- PixelPlane is cleared at reset (R33). -/
def pixUnlisted (_ : Nat) : Byte := 0x00

/-- A colour byte not written since the reset is that reset's draw of COLOR_RESET (R34, R280). -/
def colUnlisted (draw : Nat) (k : Nat) : Byte := Config.colorReset draw k

/-- A framebuffer element not listed is background (R35). -/
def fbUnlisted (_ : Nat) : Index := Config.backgroundIndex

/-! ## Reads of the FrameStore (spec/00_scope.md R15) -/

/-- `MemRead(PIX, a, 1)`. -/
def FrameStore.readPix (f : FrameStore) (a : PixAddr) : Byte := Memory.read pixUnlisted f.pix a.toNat

/-- `MemRead(COL, c, 1)`. -/
def FrameStore.readCol (f : FrameStore) (c : ColAddr) : Byte := Memory.read (colUnlisted f.colDraw) f.col c.toNat

/-- The key of `FB[y][x]`. -/
def fbKey (y x : Nat) : Nat := Config.columns * y + x

/-- `FB[y][x]` (R35, R144). -/
def FrameStore.readFb (f : FrameStore) (y x : Nat) : Index := Memory.read fbUnlisted f.fb (fbKey y x)

/-- `MemWrite(PIX, a, 1, v)`: the byte alone. -/
def FrameStore.setPix (f : FrameStore) (a : PixAddr) (v : Byte) : FrameStore :=
  { f with pix := Memory.write pixUnlisted f.pix a.toNat v }

/-- `MemWrite(COL, c, 1, v)`: the byte alone. -/
def FrameStore.setCol (f : FrameStore) (c : ColAddr) (v : Byte) : FrameStore :=
  { f with col := Memory.write (colUnlisted f.colDraw) f.col c.toNat v }

/-- `FB[y][x] <- n`. -/
def writeFb (fb : List (Nat × Index)) (y x : Nat) (n : Index) : List (Nat × Index) :=
  Memory.write fbUnlisted fb (fbKey y x) n

/-! ## Updates of one unit, outputs and draws -/

/-- Replace the FrameStore. -/
def State.withFrame (s : State) (f : FrameStore) : State := { s with frame := f }

/-- Replace the Blitter. -/
def State.withBlit (s : State) (b : Blitter) : State := { s with blit := b }

/-- Replace the InterruptSequencer. -/
def State.withSeq (s : State) (q : Sequencer) : State := { s with seq := q }

/-- Replace the SoundTriggerDecoder. -/
def State.withSound (s : State) (d : Sound) : State := { s with sound := d }

/-- `Emit`: append to the ordered output (R15). -/
def State.emit (s : State) (o : Output) : State := { s with out := s.out ++ [o] }

/-- Append sample-player commands, in order (R16). -/
def State.emitCommands (s : State) (cs : List Command) : State := { s with out := s.out ++ cs.map .command }

/-- Return a value from a read transaction (R16). -/
def State.returnValue (s : State) (v : Byte) : State := s.emit (.value v)

/-- Return the byte of a read the source does not define: `Draw(UNDEFINED_READ)` (D37). The value is free; the
counter moves on, so the next draw is another. -/
def State.returnUndefined (s : State) : State :=
  { s with out := s.out ++ [.value (Config.undefinedRead s.draws)], draws := s.draws + 1 }

/-! ## Interrupt requests

The block takes no exception and returns from none (spec/60_exceptions.md R250, R254, R255); its part in an
interrupt is the request a TICK returns, the one operation below (R252). The saved state and the handler's address
are the host CPU's, out of scope (R254). -/

/-- The maskable request, gated by its latch; a gated one is lost, not held (R252). -/
def Sequencer.maskable (q : Sequencer) : Request := if q.irqEnabled then .irq Config.irqVector else .none

/-- The non-maskable request, gated by its latch (R252). -/
def Sequencer.nonMaskable (q : Sequencer) : Request := if q.nmiEnabled then .nmi else .none

/-- Deliver a TICK's request to the host: neither latch changes (R254). -/
def State.deliver (s : State) (r : Request) : State := s.emit (.request r)

end Sys2Proof.Machine
end

