-- ==== Sys2Proof/Machine/Operands.lean ====
section
/-! DEFINITION. The operand forms: address masking, screen and colour addressing, the compositor's pixel, and the
Blitter's shifter and flip unit. -/

namespace Sys2Proof.Machine

/-! ## Plane addresses (spec/20_memory.md R71) -/

/-- `a & 0x3FFF`. -/
def pixMask (a : BusAddr) : PixAddr := a.extractLsb' 0 14

/-- `c & 0x0FFF`. -/
def colMask (c : BusAddr) : ColAddr := c.extractLsb' 0 12

/-! ## Screen position (spec/40_framestore.md R141) -/

/-- The row, `a >> 5`. -/
def pixelRow (a : PixAddr) : Nat := a.toNat >>> 5

/-- The byte column, `a & 0x1F`. -/
def byteColumn (a : PixAddr) : Nat := (a &&& 0x1F#14).toNat

/-- The x of the byte's leftmost pixel, `8 * (a & 0x1F)`. -/
def pixelLeft (a : PixAddr) : Nat := 8 * byteColumn a

/-! ## Colour addressing -/

/-- `colorAddrOf(a) = ((a & 0xFF80) >> 2) | (a & 0x1F)` (R142). -/
def colorAddrOf (a : PixAddr) : ColAddr :=
  let w : BitVec 16 := a.setWidth 16
  (((w &&& 0xFF80#16) >>> 2) ||| (w &&& 0x1F#16)).setWidth 12

/-- One of the four pixel addresses of colour byte c (R143). -/
def pixAddrAt (c : ColAddr) (j : BitVec 16) : PixAddr :=
  let w : BitVec 16 := c.setWidth 16
  (((w &&& 0xFE0#16) <<< 2) ||| (j <<< 5) ||| (w &&& 0x1F#16)).setWidth 14

/-- `pixAddrs(c)`: the four pixel addresses of colour byte c, in increasing order (R143). -/
def pixAddrs (c : ColAddr) : List PixAddr := [pixAddrAt c 0, pixAddrAt c 1, pixAddrAt c 2, pixAddrAt c 3]

/-! ## The compositor's pixel (R144) -/

/-- The high nibble of a colour byte: the left four pixels (R107). -/
def leftColor (cb : Byte) : Index := cb.extractLsb' 4 4

/-- The low nibble of a colour byte: the right four pixels (R107). -/
def rightColor (cb : Byte) : Index := cb.extractLsb' 0 4

/-- `compose(p, cb, i)`: the index of pixel i of a byte, i = 0 leftmost. -/
def compose (p cb : Byte) (i : Nat) : Index :=
  if p.getLsbD (7 - i) = false then Config.backgroundIndex
  else if i < 4 then leftColor cb
  else rightColor cb

/-! ## The control byte's fields (spec/30_encoding.md R103) -/

/-- `op = ctrl[7:4]`. -/
def controlOp (ctl : Byte) : BitVec 4 := ctl.extractLsb' 4 4

/-- `flip = ctrl[3]`. -/
def controlFlip (ctl : Byte) : Bool := ctl &&& 0x08 != 0

/-- `shiftAmount = ctrl & 0x06`. -/
def controlShiftAmount (ctl : Byte) : Nat := (ctl &&& 0x06).toNat

/-- `drop = ctrl & 0x01`. -/
def controlDrop (ctl : Byte) : Nat := (ctl &&& 0x01).toNat

/-! ## Shifter and flip unit (spec/41_blitter.md R161) -/

/-- `rev8(v)[i] = v[7-i]` (spec/00_scope.md R14). -/
def rev8 (v : Byte) : Byte :=
  BitVec.ofBool (v.getLsbD 0) ++ BitVec.ofBool (v.getLsbD 1) ++ BitVec.ofBool (v.getLsbD 2) ++
    BitVec.ofBool (v.getLsbD 3) ++ BitVec.ofBool (v.getLsbD 4) ++ BitVec.ofBool (v.getLsbD 5) ++
    BitVec.ofBool (v.getLsbD 6) ++ BitVec.ofBool (v.getLsbD 7)

/-- `shiftAndFlip(input)`: the transformed source byte S, from the control byte, the latch and the raw input. -/
def shiftAndFlip (ctl latch input : Byte) : Byte :=
  let amount := controlShiftAmount ctl
  let wide : BitVec 16 :=
    ((input.setWidth 16 >>> amount) ||| (latch.setWidth 16 <<< (8 - amount))) &&& 0x1FF#16
  let r : Byte := (wide >>> controlDrop ctl).setWidth 8
  if controlFlip ctl then rev8 r else r

/-! ## Sound operands (spec/30_encoding.md R113) -/

/-- The voice-sample index, `v & VOICE_INDEX_MASK`. -/
def voiceIndex (v : Byte) : Byte := v &&& Config.voiceIndexMask

/-- The pitch preset, `v & 0x07`. -/
def pitchIndex (v : Byte) : BitVec 3 := v.extractLsb' 0 3

/-- `pendingPatternByte`, the source's view of `pending` (spec/10_state.md R46). -/
def patternByte : Pending → Option Byte
  | .idle => none
  | .awaitDeathConfirm => some Config.confirmByte
  | .awaitLaserResetConfirm => some Config.confirmByte

end Sys2Proof.Machine
end

