-- ==== Sys2Proof/Machine/Flags.lean ====
section
/-! DEFINITION. Every flag computation (spec/10_state.md R51) and the status byte's packing. -/

namespace Sys2Proof.Machine

/-- The collision test of a blit: S against the pre-write D; a flag already set stays set (spec/41_blitter.md
R163). -/
def collisionAfter (collision : Bool) (src dst : Byte) : Bool :=
  if collision then true else src &&& dst != 0

/-- endOfScreen after the tick with tick-phase p: true after 4 and after 7 (spec/42_interrupt_sequencer.md R200). -/
def endOfScreenAfter (p : Nat) : Bool := p == 4 || p == 7

/-- `irqEnabled <- (v != 0)` (R202). -/
def irqEnabledOf (v : Byte) : Bool := v != 0

/-- The collision-status byte: bit 7 = collision, bits 6:1 = 0, bit 0 = endOfScreen (R43, R108, R181). -/
def statusByte (collision endOfScreen : Bool) : Byte :=
  (if collision then 0x80 else 0x00) ||| (if endOfScreen then 0x01 else 0x00)

end Sys2Proof.Machine
end

