-- ==== Sys2Proof/Machine/FrameStore.lean ====
section
/-! DEFINITION. FrameStore: the compositor and the meanings of PIX.W, PIX.R, COL.W, COL.R, REFRESH
(spec/40_framestore.md). -/

namespace Sys2Proof.Machine

/-- `compositeByte(x, y, p, cb)`: FB[y][x + i] <- compose(p, cb, i) for i in 0..7 (R144). -/
def compositeByte (x y : Nat) (p cb : Byte) (fb : List (Nat × Index)) : List (Nat × Index) :=
  (List.range 8).foldl (fun m i => writeFb m y (x + i) (compose p cb i)) fb

/-- Recomposite the eight elements of pixel address a (R141), for pixel byte p and colour byte cb. -/
def compositeAt (a : PixAddr) (p cb : Byte) (fb : List (Nat × Index)) : List (Nat × Index) :=
  compositeByte (pixelLeft a) (pixelRow a) p cb fb

/-- `writePixelByte(addr, value)` (R140). -/
def FrameStore.writePixelByte (f : FrameStore) (a : PixAddr) (v : Byte) : FrameStore :=
  { f.setPix a v with fb := compositeAt a v (f.readCol (colorAddrOf a)) f.fb }

/-- `writeColorByte(addr, value)` (R146): the four pixel bytes of the colour byte, in increasing order. -/
def FrameStore.writeColorByte (f : FrameStore) (c : ColAddr) (v : Byte) : FrameStore :=
  { f.setCol c v with fb := (pixAddrs c).foldl (fun m a => compositeAt a (f.readPix a) v m) f.fb }

/-- The framebuffer after the first n pixel addresses have been recomposited, in increasing order. -/
def FrameStore.refreshed (f : FrameStore) : Nat → List (Nat × Index)
  | 0 => f.fb
  | n + 1 =>
    compositeAt (BitVec.ofNat 14 n) (f.readPix (BitVec.ofNat 14 n)) (f.readCol (colorAddrOf (BitVec.ofNat 14 n)))
      (f.refreshed n)

/-- `fullRefresh()` (R147). -/
def FrameStore.fullRefresh (f : FrameStore) : FrameStore := { f with fb := f.refreshed Config.pixBytes }

/-- What the display shows at row y, column x: the index, in the rows of VISIBLE_WINDOW (R12, D5). The mapping of
an index to a colour is out of scope (R150). -/
def FrameStore.display (f : FrameStore) (y x : Nat) : Option Index :=
  if Config.visibleRow y then some (f.readFb y x) else none

/-- PIX.W (R140). -/
def execPixW (a : BusAddr) (v : Byte) (s : State) : Host.Outcome State Fault Refusal :=
  .next (s.withFrame (s.frame.writePixelByte (pixMask a) v))

/-- PIX.R (R148). -/
def execPixR (a : BusAddr) (s : State) : Host.Outcome State Fault Refusal :=
  .next (s.returnValue (s.frame.readPix (pixMask a)))

/-- COL.W (R146). -/
def execColW (c : BusAddr) (v : Byte) (s : State) : Host.Outcome State Fault Refusal :=
  .next (s.withFrame (s.frame.writeColorByte (colMask c) v))

/-- COL.R (R149). -/
def execColR (c : BusAddr) (s : State) : Host.Outcome State Fault Refusal :=
  .next (s.returnValue (s.frame.readCol (colMask c)))

/-- REFRESH (R147). -/
def execRefresh (s : State) : Host.Outcome State Fault Refusal :=
  .next (s.withFrame s.frame.fullRefresh)

end Sys2Proof.Machine
end

