-- ==== Sys2Proof/Machine/Logic.lean ====
section
/-! DEFINITION. The 16-operation logic combiner ALU(op, S, D) (spec/41_blitter.md R164 to R180), one function per
operation. -/

namespace Sys2Proof.Machine

/-- op 0x0, COPY: S (R165). -/
def logicCopy (src _dst : Byte) : Byte := src

/-- op 0x1, OR: S | D (R166). -/
def logicOr (src dst : Byte) : Byte := src ||| dst

/-- op 0x2, OR-NOT-D: S | ~D (R167). -/
def logicOrNotD (src dst : Byte) : Byte := src ||| ~~~dst

/-- op 0x3, SET: 0xFF (R168). -/
def logicSet (_src _dst : Byte) : Byte := 0xFF

/-- op 0x4, AND: S & D (R169). -/
def logicAnd (src dst : Byte) : Byte := src &&& dst

/-- op 0x5, KEEP: D (R170). -/
def logicKeep (_src dst : Byte) : Byte := dst

/-- op 0x6, XNOR: ~(S ^ D) (R171). -/
def logicXnor (src dst : Byte) : Byte := ~~~(src ^^^ dst)

/-- op 0x7, NOT-S-OR: ~S | D (R172). -/
def logicNotSOr (src dst : Byte) : Byte := ~~~src ||| dst

/-- op 0x8, AND-NOT-D: S & ~D (R173). -/
def logicAndNotD (src dst : Byte) : Byte := src &&& ~~~dst

/-- op 0x9, XOR: S ^ D (R174). -/
def logicXor (src dst : Byte) : Byte := src ^^^ dst

/-- op 0xA, NOT-D: ~D (R175). -/
def logicNotD (_src dst : Byte) : Byte := ~~~dst

/-- op 0xB, NAND: ~(S & D) (R176). -/
def logicNand (src dst : Byte) : Byte := ~~~(src &&& dst)

/-- op 0xC, CLEAR: 0x00 (R177). -/
def logicClear (_src _dst : Byte) : Byte := 0x00

/-- op 0xD, NOT-S-AND: ~S & D (R178). -/
def logicNotSAnd (src dst : Byte) : Byte := ~~~src &&& dst

/-- op 0xE, NOR: ~(S | D) (R179). -/
def logicNor (src dst : Byte) : Byte := ~~~(src ||| dst)

/-- op 0xF, NOT-S: ~S (R180). -/
def logicNotS (src _dst : Byte) : Byte := ~~~src

/-- `ALU(op, S, D)` (R164). -/
def alu (op : BitVec 4) (src dst : Byte) : Byte :=
  match op.toNat with
  | 0 => logicCopy src dst
  | 1 => logicOr src dst
  | 2 => logicOrNotD src dst
  | 3 => logicSet src dst
  | 4 => logicAnd src dst
  | 5 => logicKeep src dst
  | 6 => logicXnor src dst
  | 7 => logicNotSOr src dst
  | 8 => logicAndNotD src dst
  | 9 => logicXor src dst
  | 10 => logicNotD src dst
  | 11 => logicNand src dst
  | 12 => logicClear src dst
  | 13 => logicNotSAnd src dst
  | 14 => logicNor src dst
  | _ => logicNotS src dst

end Sys2Proof.Machine
end

