-- ==== Sys2Proof/Machine/Blitter.lean ====
section
/-! DEFINITION. Blitter: the control write, the blit write with its sixteen sub-operations, the status read and the
other accesses (spec/41_blitter.md). -/

namespace Sys2Proof.Machine

/-- `blitWrite(addr, inputByte)` (R163) under control byte ctl, with `combine` for its logic operation: S is taken
with the old latch, the latch takes the raw byte, D is the byte before the write, the collision test uses S and D,
and the combined byte is written and composited as by PIX.W. The register ctrl is not written. -/
def State.blitWrite (combine : Byte → Byte → Byte) (ctl : Byte) (a : PixAddr) (v : Byte) (s : State) : State :=
  let src := shiftAndFlip ctl s.blit.latch v
  let dst := s.frame.readPix a
  (s.withFrame (s.frame.writePixelByte a (combine src dst))).withBlit
    { s.blit with latch := v, collision := collisionAfter s.blit.collision src dst }

/-- CTRL.W (R160). -/
def execCtrlW (v : Byte) (s : State) : Host.Outcome State Fault Refusal :=
  .next (s.withBlit { ctrl := v, latch := 0x00, collision := false })

/-- CTRL.R (R183): any value, no effect. -/
def execCtrlR (s : State) : Host.Outcome State Fault Refusal := .next s.returnUndefined

/-- BLIT.W (R163): the operation is the one ctrl[7:4] selects (R105). -/
def execBlitW (a : BusAddr) (v : Byte) (s : State) : Host.Outcome State Fault Refusal :=
  .next (s.blitWrite (alu (controlOp s.blit.ctrl)) s.blit.ctrl (pixMask a) v)

/-- BLIT.R (R182): the byte PIX.R of the same address returns. -/
def execBlitR (a : BusAddr) (s : State) : Host.Outcome State Fault Refusal :=
  .next (s.returnValue (s.frame.readPix (pixMask a)))

/-- COLL.R (R181). -/
def execCollR (s : State) : Host.Outcome State Fault Refusal :=
  .next (s.returnValue (statusByte s.blit.collision s.seq.endOfScreen))

/-- COLL.W (R183): no effect. -/
def execCollW (_v : Byte) (s : State) : Host.Outcome State Fault Refusal := .next s

/-! ## The sixteen sub-operations of BLIT.W (R164 to R180)

Each is the blit write of v at a under a control byte whose op field selects it. -/

/-- op 0x0, COPY (R165). -/
def execOp0Copy (flip : Bool) (shift : BitVec 2) (drop : Bool) (a : BusAddr) (v : Byte) (s : State) :
    Host.Outcome State Fault Refusal :=
  .next (s.blitWrite logicCopy (controlByte 0x0 flip shift drop) (pixMask a) v)

/-- op 0x1, OR (R166). -/
def execOp1Or (flip : Bool) (shift : BitVec 2) (drop : Bool) (a : BusAddr) (v : Byte) (s : State) :
    Host.Outcome State Fault Refusal :=
  .next (s.blitWrite logicOr (controlByte 0x1 flip shift drop) (pixMask a) v)

/-- op 0x2, OR-NOT-D (R167). -/
def execOp2OrNotD (flip : Bool) (shift : BitVec 2) (drop : Bool) (a : BusAddr) (v : Byte) (s : State) :
    Host.Outcome State Fault Refusal :=
  .next (s.blitWrite logicOrNotD (controlByte 0x2 flip shift drop) (pixMask a) v)

/-- op 0x3, SET (R168). -/
def execOp3Set (flip : Bool) (shift : BitVec 2) (drop : Bool) (a : BusAddr) (v : Byte) (s : State) :
    Host.Outcome State Fault Refusal :=
  .next (s.blitWrite logicSet (controlByte 0x3 flip shift drop) (pixMask a) v)

/-- op 0x4, AND (R169). -/
def execOp4And (flip : Bool) (shift : BitVec 2) (drop : Bool) (a : BusAddr) (v : Byte) (s : State) :
    Host.Outcome State Fault Refusal :=
  .next (s.blitWrite logicAnd (controlByte 0x4 flip shift drop) (pixMask a) v)

/-- op 0x5, KEEP (R170): the latch and the collision test as for any blit. -/
def execOp5Keep (flip : Bool) (shift : BitVec 2) (drop : Bool) (a : BusAddr) (v : Byte) (s : State) :
    Host.Outcome State Fault Refusal :=
  .next (s.blitWrite logicKeep (controlByte 0x5 flip shift drop) (pixMask a) v)

/-- op 0x6, XNOR (R171). -/
def execOp6Xnor (flip : Bool) (shift : BitVec 2) (drop : Bool) (a : BusAddr) (v : Byte) (s : State) :
    Host.Outcome State Fault Refusal :=
  .next (s.blitWrite logicXnor (controlByte 0x6 flip shift drop) (pixMask a) v)

/-- op 0x7, NOT-S-OR (R172). -/
def execOp7NotSOr (flip : Bool) (shift : BitVec 2) (drop : Bool) (a : BusAddr) (v : Byte) (s : State) :
    Host.Outcome State Fault Refusal :=
  .next (s.blitWrite logicNotSOr (controlByte 0x7 flip shift drop) (pixMask a) v)

/-- op 0x8, AND-NOT-D (R173). -/
def execOp8AndNotD (flip : Bool) (shift : BitVec 2) (drop : Bool) (a : BusAddr) (v : Byte) (s : State) :
    Host.Outcome State Fault Refusal :=
  .next (s.blitWrite logicAndNotD (controlByte 0x8 flip shift drop) (pixMask a) v)

/-- op 0x9, XOR (R174). -/
def execOp9Xor (flip : Bool) (shift : BitVec 2) (drop : Bool) (a : BusAddr) (v : Byte) (s : State) :
    Host.Outcome State Fault Refusal :=
  .next (s.blitWrite logicXor (controlByte 0x9 flip shift drop) (pixMask a) v)

/-- op 0xA, NOT-D (R175). -/
def execOpANotD (flip : Bool) (shift : BitVec 2) (drop : Bool) (a : BusAddr) (v : Byte) (s : State) :
    Host.Outcome State Fault Refusal :=
  .next (s.blitWrite logicNotD (controlByte 0xA flip shift drop) (pixMask a) v)

/-- op 0xB, NAND (R176). -/
def execOpBNand (flip : Bool) (shift : BitVec 2) (drop : Bool) (a : BusAddr) (v : Byte) (s : State) :
    Host.Outcome State Fault Refusal :=
  .next (s.blitWrite logicNand (controlByte 0xB flip shift drop) (pixMask a) v)

/-- op 0xC, CLEAR (R177): the collision test still runs. -/
def execOpCClear (flip : Bool) (shift : BitVec 2) (drop : Bool) (a : BusAddr) (v : Byte) (s : State) :
    Host.Outcome State Fault Refusal :=
  .next (s.blitWrite logicClear (controlByte 0xC flip shift drop) (pixMask a) v)

/-- op 0xD, NOT-S-AND (R178). -/
def execOpDNotSAnd (flip : Bool) (shift : BitVec 2) (drop : Bool) (a : BusAddr) (v : Byte) (s : State) :
    Host.Outcome State Fault Refusal :=
  .next (s.blitWrite logicNotSAnd (controlByte 0xD flip shift drop) (pixMask a) v)

/-- op 0xE, NOR (R179). -/
def execOpENor (flip : Bool) (shift : BitVec 2) (drop : Bool) (a : BusAddr) (v : Byte) (s : State) :
    Host.Outcome State Fault Refusal :=
  .next (s.blitWrite logicNor (controlByte 0xE flip shift drop) (pixMask a) v)

/-- op 0xF, NOT-S (R180). -/
def execOpFNotS (flip : Bool) (shift : BitVec 2) (drop : Bool) (a : BusAddr) (v : Byte) (s : State) :
    Host.Outcome State Fault Refusal :=
  .next (s.blitWrite logicNotS (controlByte 0xF flip shift drop) (pixMask a) v)

end Sys2Proof.Machine
end

