-- ==== Sys2Proof/Machine/Reset.lean ====
section
/-! DEFINITION. RESET (spec/70_reset_and_hazards.md R280) and the acceptance of a configuration
(spec/60_exceptions.md R251). -/

namespace Sys2Proof.Machine

/-- The machine reset: every register of the block at its reset value, the ColorPlane a fresh draw of COLOR_RESET.
The host's accesses and the outputs already emitted stand outside the block and stay (log entry 18). -/
def State.machineReset (s : State) : State :=
  { State.reset with
    frame := { State.reset.frame with colDraw := s.draws }
    host := s.host
    out := s.out
    draws := s.draws + 1 }

/-- RESET (R280). -/
def execReset (s : State) : Host.Outcome State Fault Refusal := .next s.machineReset

/-- R251: a configuration that breaks a stated constraint is refused as a whole, before any step; any other starts
the machine at reset. -/
def configure (c : ConfigRecord) : Host.Outcome State Fault Refusal :=
  if c.wellFormed then .next State.reset else .refused .badConfiguration

end Sys2Proof.Machine
end

