-- ==== Sys2Proof/Machine/Sequencer.lean ====
section
/-! DEFINITION. InterruptSequencer: TICK, the enable writes and their read-triggered forms
(spec/42_interrupt_sequencer.md). -/

namespace Sys2Proof.Machine

/-- `tick()` (R200): the tick-phase p is phase + 1, in 1..8; at 4 and 8 the candidate is maskable, at the others
non-maskable; p = 8 is stored back as 0. -/
def Sequencer.tick (q : Sequencer) : Sequencer × Request :=
  let p := q.phase.toNat + 1
  if p = 4 then ({ q with phase := 4, endOfScreen := endOfScreenAfter p }, q.maskable)
  else if p = 8 then ({ q with phase := 0, endOfScreen := endOfScreenAfter p }, q.maskable)
  else ({ q with phase := BitVec.ofNat 3 p, endOfScreen := endOfScreenAfter p }, q.nonMaskable)

/-- TICK (R200). -/
def execTick (s : State) : Host.Outcome State Fault Refusal :=
  .next ((s.withSeq s.seq.tick.1).deliver s.seq.tick.2)

/-- IRQEN.W (R202). -/
def execIrqenW (v : Byte) (s : State) : Host.Outcome State Fault Refusal :=
  .next (s.withSeq { s.seq with irqEnabled := irqEnabledOf v })

/-- IRQEN.R (R207): any value, no effect. -/
def execIrqenR (s : State) : Host.Outcome State Fault Refusal := .next s.returnUndefined

/-- NMIEN.W (R203): the data byte is ignored. -/
def execNmienW (_v : Byte) (s : State) : Host.Outcome State Fault Refusal :=
  .next (s.withSeq { s.seq with nmiEnabled := true })

/-- NMIEN.R (R205): sets the latch and returns the fixed byte. -/
def execNmienR (s : State) : Host.Outcome State Fault Refusal :=
  .next ((s.withSeq { s.seq with nmiEnabled := true }).returnValue Config.nmiPortReadValue)

/-- NMIDIS.W (R204): the data byte is ignored. -/
def execNmidisW (_v : Byte) (s : State) : Host.Outcome State Fault Refusal :=
  .next (s.withSeq { s.seq with nmiEnabled := false })

/-- NMIDIS.R (R206): clears the latch and returns the fixed byte. -/
def execNmidisR (s : State) : Host.Outcome State Fault Refusal :=
  .next ((s.withSeq { s.seq with nmiEnabled := false }).returnValue Config.nmiPortReadValue)

end Sys2Proof.Machine
end

