-- ==== Sys2Proof/Machine/Sound.lean ====
section
/-! DEFINITION. SoundTriggerDecoder: the sound writes by offset, the audio update and the read
(spec/43_sound_decoder.md). -/

namespace Sys2Proof.Machine

/-- ARM (R222): a matching write arms its protocol, whatever was armed before; any other changes nothing. -/
def Sound.arm (d : Sound) (v : Byte) : Sound :=
  if d.lastNoiseCode = Config.laserCode ∧ v = Config.deathArmByte then { d with pending := .awaitDeathConfirm }
  else if d.lastNoiseCode = Config.laserResetCode ∧ v = Config.laserResetArmByte then
    { d with pending := .awaitLaserResetConfirm }
  else d

/-- VOICE (R223): the index is recorded always; the pitch and the sample go to the player unless Playing. -/
def Sound.voice (d : Sound) (v : Byte) : Sound × List Command :=
  let recorded := { d with lastVoiceCode := voiceIndex v }
  if d.deathPhase = .playing then (recorded, [])
  else
    ({ recorded with voiceBusy := true },
      [.setFrequency Config.voiceChannel d.voiceFrequencyHz,
        .startSample Config.voiceChannel (Config.voiceSampleId (voiceIndex v))])

/-- PITCH (R224). -/
def Sound.pitch (d : Sound) (v : Byte) : Sound :=
  { d with voiceFrequencyHz := Config.pitchTable (pitchIndex v) }

/-- Death confirmation (R226). -/
def Sound.confirmDeath (d : Sound) : Sound × List Command :=
  ({ d with deathPhase := .playing, lastNoiseCode := Config.noiseResetSentinel },
    [.startSample Config.effectChannel Config.sampleRealDeath])

/-- Laser-reset confirmation (R227). -/
def Sound.confirmLaserReset (d : Sound) : Sound × List Command :=
  ({ d with lastNoiseCode := Config.noiseResetSentinel }, [])

/-- The action of a CONFIRM write, before `pending` is cleared (R225): the byte must be the pattern byte. -/
def Sound.confirmAction (d : Sound) (v : Byte) : Sound × List Command :=
  if patternByte d.pending = some v then
    match d.pending with
    | .idle => (d, [])
    | .awaitDeathConfirm => d.confirmDeath
    | .awaitLaserResetConfirm => d.confirmLaserReset
  else (d, [])

/-- CONFIRM (R225): `pending` is always idle after. -/
def Sound.confirm (d : Sound) (v : Byte) : Sound × List Command :=
  ({ (d.confirmAction v).1 with pending := .idle }, (d.confirmAction v).2)

/-- The request of a changed noise code: at most one (R228). -/
def noiseCommands (code : Byte) (phase : DeathPhase) : List Command :=
  match Config.noiseSample code phase with
  | some (channel, sample) => [.startSample channel sample]
  | none => []

/-- NOISE (R228): a code of the band that differs from the last one is accepted; any other changes nothing. -/
def Sound.noise (d : Sound) (v : Byte) : Sound × List Command :=
  let code := if Config.noiseBand v then v else d.lastNoiseCode
  if code = d.lastNoiseCode then (d, [])
  else
    ({ d with lastNoiseCode := code, deathPhase := Config.noisePhase code d.deathPhase },
      noiseCommands code d.deathPhase)

/-- `audioUpdate()` (R230) for the sample player's answers. -/
def Sound.audioUpdate (d : Sound) (playV playE : Bool) : Sound :=
  { d with
    voiceBusy := if playV then d.voiceBusy else false
    deathPhase :=
      if d.deathPhase = .playing ∧ playE = false ∧ d.lastNoiseCode ≠ Config.laserCode then .none else d.deathPhase }

/-- A sound update with its commands, in the machine. -/
def State.soundStep (s : State) (r : Sound × List Command) : State := (s.withSound r.1).emitCommands r.2

/-- The voice-busy signal the block exports (R50, R259). -/
def State.voiceBusySignal (s : State) : Bool := s.sound.voiceBusy

/-- SND.W 0 (R221): ignored. -/
def execSndW0 (_v : Byte) (s : State) : Host.Outcome State Fault Refusal := .next s

/-- SND.W 1 (R221): ignored. -/
def execSndW1 (_v : Byte) (s : State) : Host.Outcome State Fault Refusal := .next s

/-- SND.W 2 (R221): ignored. -/
def execSndW2 (_v : Byte) (s : State) : Host.Outcome State Fault Refusal := .next s

/-- SND.W 3, ARM (R222). -/
def execSndW3Arm (v : Byte) (s : State) : Host.Outcome State Fault Refusal :=
  .next (s.withSound (s.sound.arm v))

/-- SND.W 4 with v[6] = 0, VOICE (R223). -/
def execSndW4Voice (v : Byte) (s : State) : Host.Outcome State Fault Refusal :=
  .next (s.soundStep (s.sound.voice v))

/-- SND.W 4 with v[6] = 1, PITCH (R224). -/
def execSndW4Pitch (v : Byte) (s : State) : Host.Outcome State Fault Refusal :=
  .next (s.withSound (s.sound.pitch v))

/-- SND.W 5, CONFIRM (R225, R226, R227). -/
def execSndW5Confirm (v : Byte) (s : State) : Host.Outcome State Fault Refusal :=
  .next (s.soundStep (s.sound.confirm v))

/-- SND.W 6, NOISE (R228). -/
def execSndW6Noise (v : Byte) (s : State) : Host.Outcome State Fault Refusal :=
  .next (s.soundStep (s.sound.noise v))

/-- SND.W 7 (R229): ignored. -/
def execSndW7 (_v : Byte) (s : State) : Host.Outcome State Fault Refusal := .next s

/-- SND.R (R231): any value at every offset, no effect. -/
def execSndR (_o : BitVec 3) (s : State) : Host.Outcome State Fault Refusal := .next s.returnUndefined

/-- AUDIO (R230). -/
def execAudio (playV playE : Bool) (s : State) : Host.Outcome State Fault Refusal :=
  .next (s.withSound (s.sound.audioUpdate playV playE))

end Sys2Proof.Machine
end

