-- ==== Sys2Proof/Machine/Dispatch.lean ====
section
/-! DEFINITION. The dispatch: one arm per row of spec/opcode_table.json. -/

namespace Sys2Proof.Machine

def exec (i : Instr) (s : State) : Host.Outcome State Fault Refusal :=
  match i with
  | .pixW a v => Sys2Proof.Machine.execPixW a v s
  | .pixR a => Sys2Proof.Machine.execPixR a s
  | .blitW a v => Sys2Proof.Machine.execBlitW a v s
  | .blitR a => Sys2Proof.Machine.execBlitR a s
  | .colW c v => Sys2Proof.Machine.execColW c v s
  | .colR c => Sys2Proof.Machine.execColR c s
  | .ctrlW v => Sys2Proof.Machine.execCtrlW v s
  | .ctrlR => Sys2Proof.Machine.execCtrlR s
  | .collR => Sys2Proof.Machine.execCollR s
  | .collW v => Sys2Proof.Machine.execCollW v s
  | .irqenW v => Sys2Proof.Machine.execIrqenW v s
  | .irqenR => Sys2Proof.Machine.execIrqenR s
  | .nmienW v => Sys2Proof.Machine.execNmienW v s
  | .nmienR => Sys2Proof.Machine.execNmienR s
  | .nmidisW v => Sys2Proof.Machine.execNmidisW v s
  | .nmidisR => Sys2Proof.Machine.execNmidisR s
  | .sndW0 v => Sys2Proof.Machine.execSndW0 v s
  | .sndW1 v => Sys2Proof.Machine.execSndW1 v s
  | .sndW2 v => Sys2Proof.Machine.execSndW2 v s
  | .sndW3Arm v => Sys2Proof.Machine.execSndW3Arm v s
  | .sndW5Confirm v => Sys2Proof.Machine.execSndW5Confirm v s
  | .sndW6Noise v => Sys2Proof.Machine.execSndW6Noise v s
  | .sndW7 v => Sys2Proof.Machine.execSndW7 v s
  | .sndW4Voice v => Sys2Proof.Machine.execSndW4Voice v s
  | .sndW4Pitch v => Sys2Proof.Machine.execSndW4Pitch v s
  | .sndR o => Sys2Proof.Machine.execSndR o s
  | .tick => Sys2Proof.Machine.execTick s
  | .audio playV playE => Sys2Proof.Machine.execAudio playV playE s
  | .refresh => Sys2Proof.Machine.execRefresh s
  | .reset => Sys2Proof.Machine.execReset s
  | .op0Copy flip shift drop a v => Sys2Proof.Machine.execOp0Copy flip shift drop a v s
  | .op1Or flip shift drop a v => Sys2Proof.Machine.execOp1Or flip shift drop a v s
  | .op2OrNotD flip shift drop a v => Sys2Proof.Machine.execOp2OrNotD flip shift drop a v s
  | .op3Set flip shift drop a v => Sys2Proof.Machine.execOp3Set flip shift drop a v s
  | .op4And flip shift drop a v => Sys2Proof.Machine.execOp4And flip shift drop a v s
  | .op5Keep flip shift drop a v => Sys2Proof.Machine.execOp5Keep flip shift drop a v s
  | .op6Xnor flip shift drop a v => Sys2Proof.Machine.execOp6Xnor flip shift drop a v s
  | .op7NotSOr flip shift drop a v => Sys2Proof.Machine.execOp7NotSOr flip shift drop a v s
  | .op8AndNotD flip shift drop a v => Sys2Proof.Machine.execOp8AndNotD flip shift drop a v s
  | .op9Xor flip shift drop a v => Sys2Proof.Machine.execOp9Xor flip shift drop a v s
  | .opANotD flip shift drop a v => Sys2Proof.Machine.execOpANotD flip shift drop a v s
  | .opBNand flip shift drop a v => Sys2Proof.Machine.execOpBNand flip shift drop a v s
  | .opCClear flip shift drop a v => Sys2Proof.Machine.execOpCClear flip shift drop a v s
  | .opDNotSAnd flip shift drop a v => Sys2Proof.Machine.execOpDNotSAnd flip shift drop a v s
  | .opENor flip shift drop a v => Sys2Proof.Machine.execOpENor flip shift drop a v s
  | .opFNotS flip shift drop a v => Sys2Proof.Machine.execOpFNotS flip shift drop a v s

end Sys2Proof.Machine
end

