-- ==== Sys2Proof/Machine/Step.lean ====
section
/-! DEFINITION. One step: the block takes the oldest access the host has issued, decodes it and runs it
(spec/20_memory.md R75, R81). The block fetches nothing (spec/10_state.md R32): the order of the accesses is the
host's, and they come from outside (log entry 1). -/

namespace Sys2Proof.Machine

/-- The refusal of a word that names no transaction (log entry 6). -/
def refusalOf : DecodeError → Refusal
  | .noSuchPort => .noSuchPort
  | .readOfHostStep => .readOfHostStep

/-- One step. With no access issued, the block holds its state (log entry 1). -/
def step (s : State) : Host.Outcome State Fault Refusal :=
  match s.host with
  | [] => .next s
  | x :: rest =>
    match decodeAccess x with
    | .ok i => exec i { s with host := rest }
    | .error e => .refused (refusalOf e)

/-- Issue an access ahead of every other. -/
def State.issue (s : State) (x : Access) : State := { s with host := x :: s.host }

/-- The opcode-table word as the host would issue it next. A transaction word is issued as it is. A logic operation
is the sub-operation BLIT.W performs while `ctrl` holds its control byte (spec/41_blitter.md R164), so `ctrl` takes
the control byte and the blit write with the operands above it is issued (log entry 2). -/
def State.withFetchWord (s : State) (nbits w : Nat) : State :=
  let e := tableEncoded nbits w
  match e.format with
  | .txn => s.issue e.access
  | .ctrl =>
    (s.withBlit { s.blit with ctrl := e.access.word.extractLsb' 0 8 }).issue
      ⟨txnWord false 1 (e.access.word.extractLsb' 16 16) (e.access.word.extractLsb' 8 8), false, false⟩

end Sys2Proof.Machine
end

