-- ==== Sys2Proof/Machine/Bus.lean ====
section
/-! DEFINITION. The host's side of the bus: how an address map turns a bus access into a transaction word
(spec/20_memory.md R78). ADDR_MAP is an argument here and the block itself does not depend on it (R12, decision D2;
log entry 19). -/

namespace Sys2Proof.Machine

/-- The windows and ports of the block that a bus access can reach (R78, R102). -/
inductive Window where
  | pix
  | blit
  | col
  | ctrl
  | coll
  | irqen
  | nmien
  | nmidis
  | snd
deriving DecidableEq, Repr

/-- The port number of a window (R102). -/
def windowPort : Window → BitVec 7
  | .pix => 0
  | .blit => 1
  | .col => 2
  | .ctrl => 3
  | .coll => 4
  | .irqen => 5
  | .nmien => 6
  | .nmidis => 7
  | .snd => 8

/-- How many consecutive addresses a window takes (R78). -/
def windowSize : Window → Nat
  | .pix => Config.pixBytes
  | .blit => Config.pixBytes
  | .col => Config.colBytes
  | .snd => 8
  | .ctrl | .coll | .irqen | .nmien | .nmidis => 1

/-- ADDR_MAP: the window a bus address reaches, and the offset within it. -/
abbrev AddrMap := Nat → Option (Window × Nat)

/-- R78: what the map must route: every window, at consecutive addresses. -/
def addrMapRoutes (m : AddrMap) : Prop :=
  ∀ w : Window, ∃ base : Nat, ∀ k, k < windowSize w → m (base + k) = some (w, k)

/-- A bus write: the access the block sees, if the map routes it to the block. -/
def busWrite (m : AddrMap) (addr : Nat) (data : Byte) : Option Access :=
  (m addr).map fun t => ⟨txnWord false (windowPort t.1) (BitVec.ofNat 16 t.2) data, false, false⟩

/-- A bus read: the access the block sees, if the map routes it to the block. -/
def busRead (m : AddrMap) (addr : Nat) : Option Access :=
  (m addr).map fun t => ⟨txnWord true (windowPort t.1) (BitVec.ofNat 16 t.2) 0, false, false⟩

end Sys2Proof.Machine
end

