-- ==== Sys2Proof/Safety.lean ====
section
/-! DEFINITION. What the claims are stated in: the invariants of the machine, and the observations of a state. -/

namespace Sys2Proof.Machine

/-- The two planes and the framebuffer in their canonical form, within their sizes (R33, R34, R35). -/
def FrameStore.wf (f : FrameStore) : Prop :=
  Memory.wf Config.pixBytes pixUnlisted f.pix ∧ Memory.wf Config.colBytes (colUnlisted f.colDraw) f.col ∧
    Memory.wf (Config.rows * Config.columns) fbUnlisted f.fb

/-- The framebuffer invariant (spec/40_framestore.md R145). -/
def FrameStore.composed (f : FrameStore) : Prop :=
  ∀ (a : PixAddr) (i : Nat), i < 8 →
    f.readFb (a.toNat / 32) (8 * (a.toNat % 32) + i) = compose (f.readPix a) (f.readCol (colorAddrOf a)) i

/-- endOfScreen is true exactly after the tick-phases 4 and 7 (spec/42_interrupt_sequencer.md R201). -/
def Sequencer.endOfScreenMatches (q : Sequencer) : Prop :=
  q.endOfScreen = true ↔ q.phase = 4 ∨ q.phase = 7

/-- The invariant of the machine. -/
def State.Inv (s : State) : Prop := s.frame.wf ∧ s.frame.composed ∧ s.seq.endOfScreenMatches

/-- The pixel address whose byte holds the element at row y, column x (R141). -/
def elementAddr (y x : Nat) : PixAddr := BitVec.ofNat 14 (32 * y + x / 8)

/-- No output, no draw, no access taken or issued: the model's own fields are as they were. -/
def quiet (s t : State) : Prop := t.out = s.out ∧ t.host = s.host ∧ t.draws = s.draws

/-- The one output is the byte b, returned by a read (R16); the model's other own fields are as they were. -/
def returned (b : Byte) (s t : State) : Prop :=
  t.out = s.out ++ [.value b] ∧ t.host = s.host ∧ t.draws = s.draws

/-- The four units of the block hold what they held. -/
def sameUnits (s t : State) : Prop :=
  t.frame = s.frame ∧ t.blit = s.blit ∧ t.seq = s.seq ∧ t.sound = s.sound

/-- The memories after byte v is written at pixel address a: that byte alone changes, its eight elements are the
compositor's, every other byte and element reads as before (R140). -/
def pixelWritten (a : PixAddr) (v : Byte) (s t : State) : Prop :=
  (∀ b, t.frame.readPix b = if b = a then v else s.frame.readPix b) ∧
    (∀ c, t.frame.readCol c = s.frame.readCol c) ∧
      ∀ y x, y < 512 → x < 256 → t.frame.readFb y x =
        if elementAddr y x = a then compose v (s.frame.readCol (colorAddrOf a)) (x % 8) else s.frame.readFb y x

/-- What a blit write of v at a under control byte ctl leaves, r being the byte it writes (R163): the latch takes
the raw byte, the collision flag the test of S against the old D, and nothing else changes. -/
def blitted (ctl : Byte) (a : PixAddr) (v r : Byte) (s t : State) : Prop :=
  pixelWritten a r s t ∧
    t.blit = { ctrl := s.blit.ctrl, latch := v,
               collision := s.blit.collision || (shiftAndFlip ctl s.blit.latch v &&& s.frame.readPix a) != 0 } ∧
      t.seq = s.seq ∧ t.sound = s.sound ∧ quiet s t

/-- A blit write: BLIT.W, or one of its sixteen sub-operations. -/
def isBlitWrite : Instr → Bool
  | .blitW _ _ => true
  | .op0Copy _ _ _ _ _ | .op1Or _ _ _ _ _ | .op2OrNotD _ _ _ _ _ | .op3Set _ _ _ _ _ => true
  | .op4And _ _ _ _ _ | .op5Keep _ _ _ _ _ | .op6Xnor _ _ _ _ _ | .op7NotSOr _ _ _ _ _ => true
  | .op8AndNotD _ _ _ _ _ | .op9Xor _ _ _ _ _ | .opANotD _ _ _ _ _ | .opBNand _ _ _ _ _ => true
  | .opCClear _ _ _ _ _ | .opDNotSAnd _ _ _ _ _ | .opENor _ _ _ _ _ | .opFNotS _ _ _ _ _ => true
  | .pixW _ _ | .pixR _ | .blitR _ | .colW _ _ | .colR _ | .ctrlW _ | .ctrlR | .collR | .collW _ => false
  | .irqenW _ | .irqenR | .nmienW _ | .nmienR | .nmidisW _ | .nmidisR => false
  | .sndW0 _ | .sndW1 _ | .sndW2 _ | .sndW3Arm _ | .sndW5Confirm _ | .sndW6Noise _ | .sndW7 _ => false
  | .sndW4Voice _ | .sndW4Pitch _ | .sndR _ | .tick | .audio _ _ | .refresh | .reset => false

/-- One bit of a logic operation, from its truth table's results for (S, D) = (0,0), (0,1), (1,0), (1,1) (R164). -/
def tableBit (t00 t01 t10 t11 : Bool) (s d : Bool) : Bool :=
  match s, d with
  | false, false => t00
  | false, true => t01
  | true, false => t10
  | true, true => t11

/-- A run of instructions, in order, stopping at the first that gives no next state. -/
def execAll : List Instr → State → Host.Outcome State Fault Refusal
  | [], s => .next s
  | i :: is, s =>
    match exec i s with
    | .next t => execAll is t
    | .fault r => .fault r
    | .refused r => .refused r

/-- A safe run: every access the host issues names a transaction, so no step of it is refused. -/
def State.hostAccessesDecode (s : State) : Prop := ∀ x ∈ s.host, ∃ i, decodeAccess x = .ok i

end Sys2Proof.Machine
end

