-- ==== Sys2Proof/Certificates/Slice0/Obligations.lean ====
section
/-! DEFINITION. The statements for the provers, from the numbered rules of spec/. -/

open Sys2Proof Sys2Proof.Machine

/-! ## The step and the words -/

/-- R17, R75, R81: the oldest access the host issued is the one the block takes, and a step is exec of the
transaction it names, with that access taken; with no access issued the block holds its state (the model's choice,
log entry 1), and a word that names no transaction is refused by name (log entry 6). That the order is the host's
alone is the spec's decision D31. -/
def Obligations.StepRunsTheOldestAccess : Prop :=
  (∀ (s : State) (x : Access) (rest : List Access) (i : Instr),
    s.host = x :: rest → decodeAccess x = .ok i → step s = exec i { s with host := rest }) ∧
  (∀ s : State, s.host = [] → step s = .next s) ∧
  (∀ (s : State) (x : Access) (rest : List Access) (e : DecodeError),
    s.host = x :: rest → decodeAccess x = .error e → ∃ r, step s = .refused r ∧ (r = .noSuchPort ∨ r = .readOfHostStep))

/-- R102, R105: issued as the next access, an opcode-table word of 32 bits runs the transaction it decodes to, and a
control byte runs the logic operation it decodes to (the model's choice of how, log entry 2). -/
def Obligations.FetchedTableWordRuns : Prop :=
  (∀ (s : State) (w : Nat) (i : Instr), decodeTableWord 32 w = some i →
    step (s.withFetchWord 32 w) = exec i s) ∧
  (∀ (s : State) (w : Nat) (i : Instr), w < 256 → decodeTableWord 8 w = some i →
    step (s.withFetchWord 8 w) = exec i (s.withBlit { s.blit with ctrl := BitVec.ofNat 8 w }))

/-- R250: the block raises no exception, trap or fault; every transaction, with every operand and in every state,
answers a next state. -/
def Obligations.EveryTransactionCompletes : Prop :=
  ∀ (i : Instr) (s : State), ∃ t, exec i s = .next t

/-- Words of spec/95_test_vectors.md and control bytes of R103, as R102, R112 and R113 read them. The numbering is
the spec's own decision D2; that the operands of a control-byte word are 0 here, the bits above its eight being
zero, is the model's choice (log entry 3). The last two clauses are no test vectors: 0x0D000000 has a port that R102
calls none and 0x89000000 reads a host step, and that the decoder gives no instruction for them is the model's
reading of R102 (log entry 6). -/
def Obligations.SpecWordsDecode : Prop :=
  decodeTableWord 32 0x000080F0 = some (.pixW 0x0080 0xF0) ∧
  decodeTableWord 32 0x8000A000 = some (.pixR 0x00A0) ∧
  decodeTableWord 32 0x010100F0 = some (.blitW 0x0100 0xF0) ∧
  decodeTableWord 32 0x0200205A = some (.colW 0x0020 0x5A) ∧
  decodeTableWord 32 0x03000090 = some (.ctrlW 0x90) ∧
  decodeTableWord 32 0x84000000 = some .collR ∧
  decodeTableWord 32 0x05000001 = some (.irqenW 0x01) ∧
  decodeTableWord 32 0x87000000 = some .nmidisR ∧
  decodeTableWord 32 0x08000443 = some (.sndW4Pitch 0x43) ∧
  decodeTableWord 32 0x08000405 = some (.sndW4Voice 0x05) ∧
  decodeTableWord 32 0x080003AC = some (.sndW3Arm 172) ∧
  decodeTableWord 32 0x08000519 = some (.sndW5Confirm 25) ∧
  decodeTableWord 32 0x09000000 = some .tick ∧
  decodeTableWord 32 0x0B000000 = some .refresh ∧
  decodeTableWord 32 0x0C000000 = some .reset ∧
  decodeTableWord 8 0x9D = some (.op9Xor true 2 true 0 0) ∧
  decodeTableWord 8 0xC2 = some (.opCClear false 1 false 0 0) ∧
  decodeTableWord 32 0x0D000000 = none ∧
  decodeTableWord 32 0x89000000 = none

/-- R102, R103, R112, R113: every well-formed instruction is what its own words decode to, with every operand at
every value. The numbering is the spec's own decision D2; the operands above a control byte and the ignored bits are
the model's choice (log entries 3, 5). -/
def Obligations.DecodeInvertsEncode : Prop :=
  ∀ i : Instr, i.wellFormed = true → decode (encode i) = .ok i

/-- R112, R113: whatever words are presented, an instruction the decoder gives is well formed: an offset-4 sound
write is VOICE with bit 6 clear or PITCH with bit 6 set. -/
def Obligations.DecodedInstructionsAreWellFormed : Prop :=
  ∀ (e : Encoded) (i : Instr), decode e = .ok i → i.wellFormed = true

/-- R102: exactly the selectors of a port below 13, and for a read of a port below 9, name a transaction; each of
the 256 control bytes selects a logic operation (R105). That the other words are refused is the model's (log entry
6). -/
def Obligations.DecodeRefusesExactlyTheUnassigned : Prop :=
  (∀ x : Access, (∃ i, decodeAccess x = .ok i) ↔
    (x.word.toNat / 2 ^ 24 % 128 < 13 ∧ (x.word.toNat / 2 ^ 31 = 1 → x.word.toNat / 2 ^ 24 % 128 < 9))) ∧
  ∀ (ctl : Byte) (a : BusAddr) (v : Byte), isBlitWrite (decodeControl ctl a v) = true

/-! ## Reset -/

/-- R280 (with the decisions D14, D15, D16): what RESET leaves, from every state. The colour bytes are the draw of
COLOR_RESET this reset takes (log entry 9), of which nothing is known; that the host's accesses and the outputs stay
is the model's choice (log entry 18). -/
def Obligations.ResetClearsTheBlock : Prop :=
  ∀ s : State, ∃ t, exec .reset s = .next t ∧
    (∀ a, t.frame.readPix a = 0x00) ∧
    (∀ c, t.frame.readCol c = Config.colorReset s.draws c.toNat) ∧
    (∀ y x, t.frame.readFb y x = 0) ∧
    t.blit = { ctrl := 0x00, latch := 0x00, collision := false } ∧
    t.seq = { phase := 0, irqEnabled := false, nmiEnabled := false, endOfScreen := false } ∧
    t.sound = { lastNoiseCode := 0x00, lastVoiceCode := 0x00, pending := .idle, deathPhase := .none,
                voiceFrequencyHz := Config.voiceFreqReset, voiceVolume := Config.voiceVolumeReset,
                voiceBusy := false } ∧
    t.out = s.out ∧ t.host = s.host ∧
    ∃ u, exec .tick t = .next u ∧ u.seq.phase = 1 ∧ u.out = s.out ++ [.request .none]

/-- R30, R33 to R50: the machine after reset holds those same values. The ColorPlane is one draw of COLOR_RESET. By
the spec's decisions D14, D15 and D16 (log entries 9, 14, 15). -/
def Obligations.ResetStateHoldsTheResetValues : Prop :=
  (∀ a, State.reset.frame.readPix a = 0x00) ∧
  (∃ n, ∀ c, State.reset.frame.readCol c = Config.colorReset n c.toNat) ∧
  (∀ y x, State.reset.frame.readFb y x = 0) ∧
  State.reset.blit = { ctrl := 0x00, latch := 0x00, collision := false } ∧
  State.reset.seq = { phase := 0, irqEnabled := false, nmiEnabled := false, endOfScreen := false } ∧
  State.reset.sound.lastNoiseCode = 0x00 ∧ State.reset.sound.lastVoiceCode = 0x00 ∧
  State.reset.sound.pending = .idle ∧ State.reset.sound.deathPhase = .none ∧
  State.reset.sound.voiceFrequencyHz = Config.voiceFreqReset ∧
  State.reset.sound.voiceVolume = Config.voiceVolumeReset ∧ State.reset.sound.voiceBusy = false

/-- The invariant of the model holds after reset: the canonical form of the two planes and the framebuffer, which is
the model's own over the sizes and reset values of R33, R34 and R35 (log entry 9), R145 of the framebuffer, which
the model stores (log entry 13), and R201's endOfScreen. -/
def Obligations.ResetMeetsTheInvariant : Prop := State.reset.Inv

/-! ## Invariants every step keeps -/

/-- R33, R34, R35, in the model's canonical form of a memory: every step keeps the planes and the framebuffer within
their sizes, rising, and free of entries equal to what an unlisted address reads as. The form is the model's own. -/
def Obligations.StepKeepsMemoryCanonical : Prop :=
  ∀ s t : State, s.frame.wf → step s = .next t → t.frame.wf

/-- R145: the framebuffer is the compositor's function of the planes after reset, and every step keeps it so. That
it is stored is the model's choice (decision D34, log entry 13). -/
def Obligations.FramebufferIsTheCompositorsFunction : Prop :=
  State.reset.frame.composed ∧ ∀ s t : State, s.frame.composed → step s = .next t → t.frame.composed

/-- R201: endOfScreen is true exactly with phase 4 or 7; every step keeps it so. -/
def Obligations.StepKeepsEndOfScreenMatched : Prop :=
  ∀ s t : State, s.seq.endOfScreenMatches → step s = .next t → t.seq.endOfScreenMatches

/-! ## FrameStore -/

/-- R71: a plane address is used modulo the plane's size, in every transaction that takes one. By the spec's
decision D4. -/
def Obligations.PlaneAddressesAreMasked : Prop :=
  ∀ (a : BusAddr) (v : Byte) (s : State),
    exec (.pixW a v) s = exec (.pixW (a &&& 0x3FFF) v) s ∧ exec (.pixR a) s = exec (.pixR (a &&& 0x3FFF)) s ∧
    exec (.blitW a v) s = exec (.blitW (a &&& 0x3FFF) v) s ∧ exec (.blitR a) s = exec (.blitR (a &&& 0x3FFF)) s ∧
    exec (.colW a v) s = exec (.colW (a &&& 0x0FFF) v) s ∧ exec (.colR a) s = exec (.colR (a &&& 0x0FFF)) s

/-- R142, R143: the colour address of a pixel address, by the source's formula and in closed form, and its inverse:
the pixel addresses of a colour byte are exactly the four of pixAddrs, in increasing order. The closed form and the
inverse are the spec's own derivations. -/
def Obligations.ColorAddressAndItsInverse : Prop :=
  (∀ a : PixAddr, (colorAddrOf a).toNat = ((a.toNat &&& 0xFF80) >>> 2) ||| (a.toNat &&& 0x1F)) ∧
  (∀ a : PixAddr, (colorAddrOf a).toNat = 32 * (a.toNat / 32 / 4) + a.toNat % 32) ∧
  (∀ (a : PixAddr) (c : ColAddr), a ∈ pixAddrs c ↔ colorAddrOf a = c) ∧
  ∀ c : ColAddr, (pixAddrs c).map BitVec.toNat =
    [0, 1, 2, 3].map fun j => ((c.toNat &&& 0xFE0) <<< 2) ||| (j <<< 5) ||| (c.toNat &&& 0x1F)

/-- R144: pixel i of a byte, 0 leftmost: background where its bit 7 - i is 0, else the high nibble of the colour
byte for the left four and the low nibble for the right four. -/
def Obligations.ComposeSelectsTheNibble : Prop :=
  ∀ (p cb : Byte) (i : Nat), i < 8 →
    (compose p cb i).toNat =
      if p.toNat / 2 ^ (7 - i) % 2 = 0 then 0 else if i < 4 then cb.toNat / 16 else cb.toNat % 16

/-- R140: PIX.W stores the byte and recomposites its eight elements; every other byte and element, the Blitter, the
sequencer, the sound decoder and the outputs are as they were; rewriting the byte already held changes nothing (in
a state that meets the invariant). -/
def Obligations.PixWriteStoresAndComposites : Prop :=
  ∀ (a : BusAddr) (v : Byte) (s : State), ∃ t, exec (.pixW a v) s = .next t ∧
    pixelWritten (pixMask a) v s t ∧
    t.blit = s.blit ∧ t.seq = s.seq ∧ t.sound = s.sound ∧ quiet s t ∧
    (s.Inv → s.frame.readPix (pixMask a) = v → t = s)

/-- R146: COL.W stores the byte and recomposites the elements of the pixel bytes whose colour address it is; every
other byte and element, and every other unit, is as it was. By the spec's decision D4. -/
def Obligations.ColWriteStoresAndComposites : Prop :=
  ∀ (c : BusAddr) (v : Byte) (s : State), ∃ t, exec (.colW c v) s = .next t ∧
    (∀ d, t.frame.readCol d = if d = colMask c then v else s.frame.readCol d) ∧
    (∀ a, t.frame.readPix a = s.frame.readPix a) ∧
    (∀ y x, y < 512 → x < 256 → t.frame.readFb y x =
      if elementAddr y x ∈ pixAddrs (colMask c) then compose (s.frame.readPix (elementAddr y x)) v (x % 8)
      else s.frame.readFb y x) ∧
    t.blit = s.blit ∧ t.seq = s.seq ∧ t.sound = s.sound ∧ quiet s t

/-- R147: REFRESH rebuilds every element from the planes, in whatever state the framebuffer was, and changes
nothing else; a second one leaves the same framebuffer; in a state that meets the invariant it changes nothing. -/
def Obligations.RefreshRebuildsTheFramebuffer : Prop :=
  ∀ s : State, ∃ t, exec .refresh s = .next t ∧
    (∀ y x, y < 512 → x < 256 → t.frame.readFb y x =
      compose (s.frame.readPix (elementAddr y x)) (s.frame.readCol (colorAddrOf (elementAddr y x))) (x % 8)) ∧
    (∀ a, t.frame.readPix a = s.frame.readPix a) ∧ (∀ c, t.frame.readCol c = s.frame.readCol c) ∧
    t.blit = s.blit ∧ t.seq = s.seq ∧ t.sound = s.sound ∧ quiet s t ∧
    (∃ u, exec .refresh t = .next u ∧ ∀ y x, y < 512 → x < 256 → u.frame.readFb y x = t.frame.readFb y x) ∧
    (s.Inv → t = s)

/-- R148, R149, R182: PIX.R and BLIT.R return the pixel byte, COL.R the colour byte, with no side effect. By the
spec's decision D36. -/
def Obligations.PlaneReadsReturnTheByte : Prop :=
  ∀ (a : BusAddr) (s : State),
    (∃ t, exec (.pixR a) s = .next t ∧ returned (s.frame.readPix (pixMask a)) s t ∧ sameUnits s t) ∧
    (∃ t, exec (.blitR a) s = .next t ∧ returned (s.frame.readPix (pixMask a)) s t ∧ sameUnits s t) ∧
    (∃ t, exec (.colR a) s = .next t ∧ returned (s.frame.readCol (colMask a)) s t ∧ sameUnits s t)

/-- R79, R285: the blit window and the direct window reach the same bytes. After PIX.W either read returns its byte;
after BLIT.W both return the combined byte; and a blit after a direct write combines with the byte the direct write
left, with the latch from before it. By the spec's decisions D6 and D36. -/
def Obligations.BothWindowsReachTheSameBytes : Prop :=
  ∀ (a : BusAddr) (d v : Byte) (s : State),
    (∃ t, execAll [.pixW a v, .blitR a, .pixR a] s = .next t ∧ t.out = s.out ++ [.value v, .value v]) ∧
    (∃ t b, execAll [.blitW a v, .blitR a, .pixR a] s = .next t ∧ t.out = s.out ++ [.value b, .value b] ∧
      b = alu (controlOp s.blit.ctrl) (shiftAndFlip s.blit.ctrl s.blit.latch v) (s.frame.readPix (pixMask a))) ∧
    ∃ t, execAll [.pixW a d, .blitW a v] s = .next t ∧
      t.frame.readPix (pixMask a) = alu (controlOp s.blit.ctrl) (shiftAndFlip s.blit.ctrl s.blit.latch v) d ∧
      t.blit.collision = (s.blit.collision || (shiftAndFlip s.blit.ctrl s.blit.latch v &&& d) != 0)

/-- R77: writing the same value twice to the same plane address leaves the same state as writing it once. -/
def Obligations.DirectWritesAreIdempotent : Prop :=
  ∀ (a : BusAddr) (v : Byte) (s t : State), s.frame.wf →
    (exec (.pixW a v) s = .next t → exec (.pixW a v) t = .next t) ∧
    (exec (.colW a v) s = .next t → exec (.colW a v) t = .next t)

/-! ## Blitter -/

/-- R160: CTRL.W sets the control byte and clears the latch and the collision flag; nothing else changes. Apart from
RESET (R280), no other transaction clears the collision flag. -/
def Obligations.ControlWriteSetsAndClears : Prop :=
  (∀ (v : Byte) (s : State), ∃ t, exec (.ctrlW v) s = .next t ∧
    t.blit = { ctrl := v, latch := 0x00, collision := false } ∧
    t.frame = s.frame ∧ t.seq = s.seq ∧ t.sound = s.sound ∧ quiet s t) ∧
  ∀ (i : Instr) (s t : State), exec i s = .next t → s.blit.collision = true → t.blit.collision = false →
    (∃ v, i = .ctrlW v) ∨ i = .reset

/-- R162, R104: S is the window of bits k+7..k of latch : input, k = ctrl[2:0], bit-reversed when ctrl[3]. By the
spec's decision D7. -/
def Obligations.ShiftAndFlipIsAWindow : Prop :=
  ∀ (ctl latch input : Byte) (i : Nat), i < 8 →
    (shiftAndFlip ctl latch input).getLsbD i =
      (256 * latch.toNat + input.toNat).testBit (ctl.toNat % 8 + if ctl.getLsbD 3 then 7 - i else i)

/-- R163: BLIT.W writes the combination of S and the pre-write D by the operation of ctrl[7:4], latches the raw
byte, and tests S against D for collision; nothing else changes. By the spec's decision D6 the byte is written once
(log entry 22). -/
def Obligations.BlitWriteCombines : Prop :=
  ∀ (a : BusAddr) (v : Byte) (s : State), ∃ t, exec (.blitW a v) s = .next t ∧
    blitted s.blit.ctrl (pixMask a) v
      (alu (controlOp s.blit.ctrl) (shiftAndFlip s.blit.ctrl s.blit.latch v) (s.frame.readPix (pixMask a))) s t

/-- R105: the op field of ctrl selects the logic operation of a BLIT.W: the blit write is the sub-operation its
control byte decodes to. The sub-operation as an instruction of its own is the model's choice (log entry 2). -/
def Obligations.ControlByteSelectsTheOperation : Prop :=
  ∀ (a : BusAddr) (v : Byte) (s : State),
    exec (.blitW a v) s = exec (decodeControl s.blit.ctrl a v) s

/-- R165 to R172: selected by the high four bits of the control byte, the function and the truth table of each of the
operations 0x0 to 0x7. -/
def Obligations.LogicTruthTablesLow : Prop :=
  ∀ (ctl src dst : Byte) (i : Nat), i < 8 →
    let r := alu (controlOp ctl) src dst
    let bit := fun t00 t01 t10 t11 => tableBit t00 t01 t10 t11 (src.getLsbD i) (dst.getLsbD i)
    (ctl.toNat / 16 = 0x0 → r = src ∧ r.getLsbD i = bit false false true true) ∧
    (ctl.toNat / 16 = 0x1 → r = src ||| dst ∧ r.getLsbD i = bit false true true true) ∧
    (ctl.toNat / 16 = 0x2 → r = src ||| ~~~dst ∧ r.getLsbD i = bit true false true true) ∧
    (ctl.toNat / 16 = 0x3 → r = 0xFF ∧ r.getLsbD i = bit true true true true) ∧
    (ctl.toNat / 16 = 0x4 → r = src &&& dst ∧ r.getLsbD i = bit false false false true) ∧
    (ctl.toNat / 16 = 0x5 → r = dst ∧ r.getLsbD i = bit false true false true) ∧
    (ctl.toNat / 16 = 0x6 → r = ~~~(src ^^^ dst) ∧ r.getLsbD i = bit true false false true) ∧
    (ctl.toNat / 16 = 0x7 → r = ~~~src ||| dst ∧ r.getLsbD i = bit true true false true)

/-- R173 to R180: selected by the high four bits of the control byte, the function and the truth table of each of the
operations 0x8 to 0xF. -/
def Obligations.LogicTruthTablesHigh : Prop :=
  ∀ (ctl src dst : Byte) (i : Nat), i < 8 →
    let r := alu (controlOp ctl) src dst
    let bit := fun t00 t01 t10 t11 => tableBit t00 t01 t10 t11 (src.getLsbD i) (dst.getLsbD i)
    (ctl.toNat / 16 = 0x8 → r = src &&& ~~~dst ∧ r.getLsbD i = bit false false true false) ∧
    (ctl.toNat / 16 = 0x9 → r = src ^^^ dst ∧ r.getLsbD i = bit false true true false) ∧
    (ctl.toNat / 16 = 0xA → r = ~~~dst ∧ r.getLsbD i = bit true false true false) ∧
    (ctl.toNat / 16 = 0xB → r = ~~~(src &&& dst) ∧ r.getLsbD i = bit true true true false) ∧
    (ctl.toNat / 16 = 0xC → r = 0x00 ∧ r.getLsbD i = bit false false false false) ∧
    (ctl.toNat / 16 = 0xD → r = ~~~src &&& dst ∧ r.getLsbD i = bit false true false false) ∧
    (ctl.toNat / 16 = 0xE → r = ~~~(src ||| dst) ∧ r.getLsbD i = bit true false false false) ∧
    (ctl.toNat / 16 = 0xF → r = ~~~src ∧ r.getLsbD i = bit true true false false)

/-- R165 to R172: the sub-operations 0x0 to 0x7 of a blit write, each with the byte its rule gives, and the latch
and collision effects of R163; nothing else changes. The sub-operation as an instruction of its own is the model's
choice (log entry 2). -/
def Obligations.LogicOperationsLowWriteTheirResult : Prop :=
  ∀ (flip : Bool) (shift : BitVec 2) (drop : Bool) (a : BusAddr) (v : Byte) (s : State) (dst : Byte),
    s.frame.readPix (pixMask a) = dst →
    let src := fun op : BitVec 4 => shiftAndFlip (controlByte op flip shift drop) s.blit.latch v
    (∃ t, exec (.op0Copy flip shift drop a v) s = .next t ∧
      blitted (controlByte 0x0 flip shift drop) (pixMask a) v (src 0x0) s t) ∧
    (∃ t, exec (.op1Or flip shift drop a v) s = .next t ∧
      blitted (controlByte 0x1 flip shift drop) (pixMask a) v (src 0x1 ||| dst) s t) ∧
    (∃ t, exec (.op2OrNotD flip shift drop a v) s = .next t ∧
      blitted (controlByte 0x2 flip shift drop) (pixMask a) v (src 0x2 ||| ~~~dst) s t) ∧
    (∃ t, exec (.op3Set flip shift drop a v) s = .next t ∧
      blitted (controlByte 0x3 flip shift drop) (pixMask a) v 0xFF s t) ∧
    (∃ t, exec (.op4And flip shift drop a v) s = .next t ∧
      blitted (controlByte 0x4 flip shift drop) (pixMask a) v (src 0x4 &&& dst) s t) ∧
    (∃ t, exec (.op5Keep flip shift drop a v) s = .next t ∧
      blitted (controlByte 0x5 flip shift drop) (pixMask a) v dst s t) ∧
    (∃ t, exec (.op6Xnor flip shift drop a v) s = .next t ∧
      blitted (controlByte 0x6 flip shift drop) (pixMask a) v (~~~(src 0x6 ^^^ dst)) s t) ∧
    (∃ t, exec (.op7NotSOr flip shift drop a v) s = .next t ∧
      blitted (controlByte 0x7 flip shift drop) (pixMask a) v (~~~(src 0x7) ||| dst) s t)

/-- R173 to R180: the sub-operations 0x8 to 0xF of a blit write, each with the byte its rule gives, and the latch
and collision effects of R163; nothing else changes. The sub-operation as an instruction of its own is the model's
choice (log entry 2). -/
def Obligations.LogicOperationsHighWriteTheirResult : Prop :=
  ∀ (flip : Bool) (shift : BitVec 2) (drop : Bool) (a : BusAddr) (v : Byte) (s : State) (dst : Byte),
    s.frame.readPix (pixMask a) = dst →
    let src := fun op : BitVec 4 => shiftAndFlip (controlByte op flip shift drop) s.blit.latch v
    (∃ t, exec (.op8AndNotD flip shift drop a v) s = .next t ∧
      blitted (controlByte 0x8 flip shift drop) (pixMask a) v (src 0x8 &&& ~~~dst) s t) ∧
    (∃ t, exec (.op9Xor flip shift drop a v) s = .next t ∧
      blitted (controlByte 0x9 flip shift drop) (pixMask a) v (src 0x9 ^^^ dst) s t) ∧
    (∃ t, exec (.opANotD flip shift drop a v) s = .next t ∧
      blitted (controlByte 0xA flip shift drop) (pixMask a) v (~~~dst) s t) ∧
    (∃ t, exec (.opBNand flip shift drop a v) s = .next t ∧
      blitted (controlByte 0xB flip shift drop) (pixMask a) v (~~~(src 0xB &&& dst)) s t) ∧
    (∃ t, exec (.opCClear flip shift drop a v) s = .next t ∧
      blitted (controlByte 0xC flip shift drop) (pixMask a) v 0x00 s t) ∧
    (∃ t, exec (.opDNotSAnd flip shift drop a v) s = .next t ∧
      blitted (controlByte 0xD flip shift drop) (pixMask a) v (~~~(src 0xD) &&& dst) s t) ∧
    (∃ t, exec (.opENor flip shift drop a v) s = .next t ∧
      blitted (controlByte 0xE flip shift drop) (pixMask a) v (~~~(src 0xE ||| dst)) s t) ∧
    (∃ t, exec (.opFNotS flip shift drop a v) s = .next t ∧
      blitted (controlByte 0xF flip shift drop) (pixMask a) v (~~~(src 0xF)) s t)

/-- R174: with XOR selected, blitting the same S twice to one address restores the byte, whatever raw bytes v and w
give that S; v is the latch the second blit is made with. The rule marks this as its own derivation. -/
def Obligations.XorBlitTwiceRestores : Prop :=
  ∀ (a : BusAddr) (v w : Byte) (s : State), controlOp s.blit.ctrl = 0x9 →
    shiftAndFlip s.blit.ctrl v w = shiftAndFlip s.blit.ctrl s.blit.latch v →
    ∃ t, execAll [.blitW a v, .blitW a w] s = .next t ∧ ∀ b, t.frame.readPix b = s.frame.readPix b

/-- R37: bit 7 of the latch never reaches any output: a blit write from two states that differ there alone leaves
the same state. -/
def Obligations.LatchBit7IsNeverSeen : Prop :=
  ∀ (a : BusAddr) (v : Byte) (s : State),
    exec (.blitW a v) (s.withBlit { s.blit with latch := s.blit.latch ^^^ 0x80 }) = exec (.blitW a v) s

/-- R38, R84, R160, R280: once true, the collision flag stays true through every transaction but CTRL.W and RESET,
and it becomes true only by a blit write, by BLIT.W only where its S overlaps the pre-write D. RESET's clearing is
the spec's decision D14. -/
def Obligations.CollisionIsSticky : Prop :=
  ∀ (i : Instr) (s t : State), exec i s = .next t →
    (s.blit.collision = true → (∀ v, i ≠ .ctrlW v) → i ≠ .reset → t.blit.collision = true) ∧
    (s.blit.collision = false → t.blit.collision = true → isBlitWrite i = true ∧
      ∀ a v, i = .blitW a v →
        shiftAndFlip s.blit.ctrl s.blit.latch v &&& s.frame.readPix (pixMask a) ≠ 0)

/-- R43, R108, R181: COLL.R returns collision in bit 7, endOfScreen in bit 0 and zero in bits 6:1, one of four
values; it changes nothing. By the spec's decision D8. -/
def Obligations.StatusReadPacksTwoFlags : Prop :=
  ∀ s : State, ∃ t b, exec .collR s = .next t ∧ returned b s t ∧ sameUnits s t ∧
    b.getLsbD 7 = s.blit.collision ∧ b.getLsbD 0 = s.seq.endOfScreen ∧
    (∀ i, 1 ≤ i → i ≤ 6 → b.getLsbD i = false) ∧
    (b = 0x00 ∨ b = 0x01 ∨ b = 0x80 ∨ b = 0x81)

/-- R183, R207, R229, R231, by the spec's decisions D17 and D37: CTRL.R, IRQEN.R and SND.R return some byte, of which
nothing is known (log entry 8); COLL.W and SND.W 7 do nothing; none changes anything of the block. -/
def Obligations.UndefinedAccessesChangeNothing : Prop :=
  ∀ (v : Byte) (o : BitVec 3) (s : State),
    (∃ t b, exec .ctrlR s = .next t ∧ t.out = s.out ++ [.value b] ∧ sameUnits s t) ∧
    (∃ t b, exec .irqenR s = .next t ∧ t.out = s.out ++ [.value b] ∧ sameUnits s t) ∧
    (∃ t b, exec (.sndR o) s = .next t ∧ t.out = s.out ++ [.value b] ∧ sameUnits s t) ∧
    exec (.collW v) s = .next s ∧ exec (.sndW7 v) s = .next s

/-! ## InterruptSequencer -/

/-- R200, R201: one tick, from every state: the phase, the end-of-screen bit, the latches and the one request. By
the spec's decisions D9, D10 and D11. -/
def Obligations.TickAdvancesAndRequests : Prop :=
  ∀ s : State, ∃ t, exec .tick s = .next t ∧
    t.seq.phase.toNat = (s.seq.phase.toNat + 1) % 8 ∧
    (t.seq.endOfScreen = true ↔ s.seq.phase.toNat + 1 = 4 ∨ s.seq.phase.toNat + 1 = 7) ∧
    t.seq.irqEnabled = s.seq.irqEnabled ∧ t.seq.nmiEnabled = s.seq.nmiEnabled ∧
    t.out = s.out ++ [.request
      (if s.seq.phase = 3 ∨ s.seq.phase = 7 then (if s.seq.irqEnabled then .irq Config.irqVector else .none)
       else if s.seq.nmiEnabled then .nmi else .none)] ∧
    t.frame = s.frame ∧ t.blit = s.blit ∧ t.sound = s.sound ∧ t.host = s.host ∧ t.draws = s.draws

/-- R200 (its example), R201: from phase 0 with both latches set, eight ticks with a status read after each give the
source's sequence of requests and of end-of-screen bits, and the phase is 0 again; from any phase eight ticks come
back to it. By the spec's decisions D8, D9 and D10. -/
def Obligations.EightTicksMakeACycle : Prop :=
  (∀ s : State, s.seq.phase = 0 → s.seq.irqEnabled = true → s.seq.nmiEnabled = true → s.blit.collision = false →
    ∃ t, execAll [.tick, .collR, .tick, .collR, .tick, .collR, .tick, .collR,
                  .tick, .collR, .tick, .collR, .tick, .collR, .tick, .collR] s = .next t ∧
      t.seq.phase = 0 ∧
      t.out = s.out ++
        [.request .nmi, .value 0x00, .request .nmi, .value 0x00, .request .nmi, .value 0x00,
         .request (.irq Config.irqVector), .value 0x01,
         .request .nmi, .value 0x00, .request .nmi, .value 0x00, .request .nmi, .value 0x01,
         .request (.irq Config.irqVector), .value 0x00]) ∧
  ∀ s : State, ∃ t, execAll [.tick, .tick, .tick, .tick, .tick, .tick, .tick, .tick] s = .next t ∧
    t.seq.phase = s.seq.phase

/-- R202, R203, R204, R109: the enable writes set their own latch, by the whole data byte for IRQEN.W and by
the port alone for the other two, and change nothing else. -/
def Obligations.EnableWritesSetTheirLatch : Prop :=
  ∀ (v : Byte) (s : State),
    (∃ t, exec (.irqenW v) s = .next t ∧ (t.seq.irqEnabled = true ↔ v.toNat ≠ 0) ∧
      t.seq = { s.seq with irqEnabled := t.seq.irqEnabled } ∧
      t.frame = s.frame ∧ t.blit = s.blit ∧ t.sound = s.sound ∧ quiet s t) ∧
    (∃ t, exec (.nmienW v) s = .next t ∧ t.seq = { s.seq with nmiEnabled := true } ∧
      t.frame = s.frame ∧ t.blit = s.blit ∧ t.sound = s.sound ∧ quiet s t) ∧
    (∃ t, exec (.nmidisW v) s = .next t ∧ t.seq = { s.seq with nmiEnabled := false } ∧
      t.frame = s.frame ∧ t.blit = s.blit ∧ t.sound = s.sound ∧ quiet s t)

/-- R205, R206, R76: a read of the NMI enable port sets the latch and of the disable port clears it, whatever it
held; both return the same fixed byte; a second identical read returns that byte again and leaves the latch. By the
spec's decisions D12 and D13. -/
def Obligations.NmiPortReadsSetAndClear : Prop :=
  ∀ s : State,
    (∃ t, exec .nmienR s = .next t ∧ returned Config.nmiPortReadValue s t ∧
      t.seq = { s.seq with nmiEnabled := true } ∧ t.frame = s.frame ∧ t.blit = s.blit ∧ t.sound = s.sound ∧
      ∃ u, exec .nmienR t = .next u ∧ returned Config.nmiPortReadValue t u ∧ sameUnits t u) ∧
    (∃ t, exec .nmidisR s = .next t ∧ returned Config.nmiPortReadValue s t ∧
      t.seq = { s.seq with nmiEnabled := false } ∧ t.frame = s.frame ∧ t.blit = s.blit ∧ t.sound = s.sound ∧
      ∃ u, exec .nmidisR t = .next u ∧ returned Config.nmiPortReadValue t u ∧ sameUnits t u)

/-- R16, R49, R252, R253: the outputs only grow; a TICK adds exactly one request and no other transaction adds any;
no transaction emits SetVolume. That the outputs are a list that only grows is the model's choice (log entry 7). -/
def Obligations.OnlyTickRequestsAnInterrupt : Prop :=
  ∀ (i : Instr) (s t : State), exec i s = .next t → ∃ added, t.out = s.out ++ added ∧
    (i = .tick → ∃ r, added = [.request r]) ∧
    (i ≠ .tick → ∀ r, Output.request r ∉ added) ∧
    ∀ ch level, Output.command (.setVolume ch level) ∉ added

/-! ## SoundTriggerDecoder -/

/-- R221: sound writes at offsets 0, 1 and 2 change nothing, `pending` included, and emit nothing. -/
def Obligations.IgnoredSoundOffsets : Prop :=
  ∀ (v : Byte) (s : State),
    exec (.sndW0 v) s = .next s ∧ exec (.sndW1 v) s = .next s ∧ exec (.sndW2 v) s = .next s

/-- R222: ARM. A matching write arms its protocol whatever was armed; any other leaves `pending`; nothing else
changes and nothing is emitted. By the spec's decisions D22 and D23. -/
def Obligations.ArmWritesPending : Prop :=
  ∀ (v : Byte) (s : State), ∃ t, exec (.sndW3Arm v) s = .next t ∧
    t.sound = { s.sound with pending :=
      if s.sound.lastNoiseCode = 70 ∧ v = 172 then .awaitDeathConfirm
      else if s.sound.lastNoiseCode = 69 ∧ v = 50 then .awaitLaserResetConfirm
      else s.sound.pending } ∧
    t.frame = s.frame ∧ t.blit = s.blit ∧ t.seq = s.seq ∧ quiet s t

/-- R223: VOICE. The masked index is recorded always; unless deathPhase is Playing, the pitch and the sample are
sent to the player, in that order, and voiceBusy is set; nothing else changes. By the spec's decisions D18, D19 and
D38. R223 gives this for bytes with bit 6 clear; for the others, which no word decodes to as VOICE, it is the
model's choice (log entry 17). -/
def Obligations.VoiceTriggersUnlessPlaying : Prop :=
  ∀ (v : Byte) (s : State), ∃ t, exec (.sndW4Voice v) s = .next t ∧
    (s.sound.deathPhase ≠ .playing →
      t.sound = { s.sound with lastVoiceCode := v &&& Config.voiceIndexMask, voiceBusy := true } ∧
      t.out = s.out ++ [.command (.setFrequency Config.voiceChannel s.sound.voiceFrequencyHz),
        .command (.startSample Config.voiceChannel (Config.voiceSampleId (v &&& Config.voiceIndexMask)))]) ∧
    (s.sound.deathPhase = .playing →
      t.sound = { s.sound with lastVoiceCode := v &&& Config.voiceIndexMask } ∧ t.out = s.out) ∧
    t.frame = s.frame ∧ t.blit = s.blit ∧ t.seq = s.seq ∧ t.host = s.host ∧ t.draws = s.draws

/-- R224: PITCH. The preset of the low three bits becomes the voice frequency; nothing else changes, nothing is
emitted. By the spec's decisions D20 and D21. R224 gives this for bytes with bit 6 set; for the others, which no
word decodes to as PITCH, it is the model's choice (log entry 17). -/
def Obligations.PitchSelectsAPreset : Prop :=
  ∀ (v : Byte) (s : State), ∃ t, exec (.sndW4Pitch v) s = .next t ∧
    t.sound = { s.sound with voiceFrequencyHz := Config.pitchTable (BitVec.ofNat 3 (v.toNat % 8)) } ∧
    t.frame = s.frame ∧ t.blit = s.blit ∧ t.seq = s.seq ∧ quiet s t

/-- R225, R226, R227: CONFIRM. With 25 and the death pattern armed, the death action; with 25 and the laser-reset
pattern, the reset action; otherwise no action. `pending` is idle after, in every case. By the spec's decisions D22
and D24. -/
def Obligations.ConfirmActsOnlyOnThePattern : Prop :=
  ∀ (v : Byte) (s : State), ∃ t, exec (.sndW5Confirm v) s = .next t ∧
    (s.sound.pending = .awaitDeathConfirm ∧ v = 25 →
      t.sound = { s.sound with pending := .idle, deathPhase := .playing, lastNoiseCode := 64 } ∧
      t.out = s.out ++ [.command (.startSample Config.effectChannel Config.sampleRealDeath)]) ∧
    (s.sound.pending = .awaitLaserResetConfirm ∧ v = 25 →
      t.sound = { s.sound with pending := .idle, lastNoiseCode := 64 } ∧ t.out = s.out) ∧
    (s.sound.pending = .idle ∨ v ≠ 25 → t.sound = { s.sound with pending := .idle } ∧ t.out = s.out) ∧
    t.frame = s.frame ∧ t.blit = s.blit ∧ t.seq = s.seq ∧ t.host = s.host ∧ t.draws = s.draws

/-- R228: NOISE. A code of the band that is a change is accepted, with at most the one request of its table entry
and its death-phase update, both from the phase before; any other write changes nothing. By the spec's decisions D25
and D26. -/
def Obligations.NoiseAcceptsAChangedCode : Prop :=
  ∀ (v : Byte) (s : State), ∃ t, exec (.sndW6Noise v) s = .next t ∧
    (Config.noiseBand v = true ∧ v ≠ s.sound.lastNoiseCode →
      t.sound = { s.sound with lastNoiseCode := v, deathPhase := Config.noisePhase v s.sound.deathPhase } ∧
      t.out = s.out ++ (match Config.noiseSample v s.sound.deathPhase with
        | some (ch, id) => [.command (.startSample ch id)]
        | none => [])) ∧
    (Config.noiseBand v = false ∨ v = s.sound.lastNoiseCode → t = s) ∧
    t.frame = s.frame ∧ t.blit = s.blit ∧ t.seq = s.seq ∧ t.host = s.host ∧ t.draws = s.draws

/-- R230: AUDIO, for every pair of answers of the sample player: voiceBusy is cleared when the voice channel is
done; Playing ends when the effect channel is done and lastNoiseCode is not 70; nothing else changes. By the spec's
decision D27. -/
def Obligations.AudioUpdateClearsBusyAndPlaying : Prop :=
  ∀ (playV playE : Bool) (s : State), ∃ t, exec (.audio playV playE) s = .next t ∧
    t.sound = { s.sound with
      voiceBusy := s.sound.voiceBusy && playV
      deathPhase := if s.sound.deathPhase = .playing ∧ playE = false ∧ s.sound.lastNoiseCode ≠ 70 then .none
                    else s.sound.deathPhase } ∧
    t.frame = s.frame ∧ t.blit = s.blit ∧ t.seq = s.seq ∧ quiet s t

/-- R226 (its example), V-SRC-9: from any state, the writes (6, 70), (3, 172), (5, 25) end with lastNoiseCode 64,
Playing, the pattern idle, and the real-death request as the last output; before it stands at most NOISE_SAMPLE's
request for code 70, and lastVoiceCode and voiceBusy are as they were. By the spec's decision D24. -/
def Obligations.DeathProtocolPlaysRealDeath : Prop :=
  ∀ s : State, ∃ t, execAll [.sndW6Noise 70, .sndW3Arm 172, .sndW5Confirm 25] s = .next t ∧
    t.sound.lastNoiseCode = 64 ∧ t.sound.deathPhase = .playing ∧ t.sound.pending = .idle ∧
    t.sound.lastVoiceCode = s.sound.lastVoiceCode ∧ t.sound.voiceBusy = s.sound.voiceBusy ∧
    ∃ noise, t.out = s.out ++ noise ++ [.command (.startSample Config.effectChannel Config.sampleRealDeath)] ∧
      (noise = [] ∨ ∃ ch id, Config.noiseSample 70 s.sound.deathPhase = some (ch, id) ∧
        noise = [.command (.startSample ch id)])

/-! ## The whole machine -/

/-- R31 with R33 to R50: each register is written only by the transactions its own rule names. That no transaction
takes or issues an access is the model's choice (log entry 1). -/
def Obligations.EachRegisterHasItsOwnWriters : Prop :=
  ∀ (i : Instr) (s t : State), exec i s = .next t → i ≠ .reset →
    t.host = s.host ∧
    ((∀ a, t.frame.readPix a = s.frame.readPix a) ∨ (∃ a v, i = .pixW a v) ∨ isBlitWrite i = true) ∧
    ((∀ c, t.frame.readCol c = s.frame.readCol c) ∨ ∃ c v, i = .colW c v) ∧
    ((∀ y x, t.frame.readFb y x = s.frame.readFb y x) ∨ (∃ a v, i = .pixW a v) ∨ isBlitWrite i = true ∨
      (∃ c v, i = .colW c v) ∨ i = .refresh) ∧
    (t.blit.ctrl = s.blit.ctrl ∨ ∃ v, i = .ctrlW v) ∧
    (t.blit.latch = s.blit.latch ∨ (∃ v, i = .ctrlW v) ∨ isBlitWrite i = true) ∧
    (t.blit.collision = s.blit.collision ∨ (∃ v, i = .ctrlW v) ∨ isBlitWrite i = true) ∧
    ((t.seq.phase = s.seq.phase ∧ t.seq.endOfScreen = s.seq.endOfScreen) ∨ i = .tick) ∧
    (t.seq.irqEnabled = s.seq.irqEnabled ∨ ∃ v, i = .irqenW v) ∧
    (t.seq.nmiEnabled = s.seq.nmiEnabled ∨ (∃ v, i = .nmienW v) ∨ (∃ v, i = .nmidisW v) ∨ i = .nmienR ∨
      i = .nmidisR) ∧
    (t.sound.lastNoiseCode = s.sound.lastNoiseCode ∨ (∃ v, i = .sndW5Confirm v) ∨ ∃ v, i = .sndW6Noise v) ∧
    (t.sound.lastVoiceCode = s.sound.lastVoiceCode ∨ ∃ v, i = .sndW4Voice v) ∧
    (t.sound.pending = s.sound.pending ∨ (∃ v, i = .sndW3Arm v) ∨ ∃ v, i = .sndW5Confirm v) ∧
    (t.sound.deathPhase = s.sound.deathPhase ∨ (∃ v, i = .sndW5Confirm v) ∨ (∃ v, i = .sndW6Noise v) ∨
      ∃ pv pe, i = .audio pv pe) ∧
    (t.sound.voiceFrequencyHz = s.sound.voiceFrequencyHz ∨ ∃ v, i = .sndW4Pitch v) ∧
    t.sound.voiceVolume = s.sound.voiceVolume ∧
    (t.sound.voiceBusy = s.sound.voiceBusy ∨ (∃ v, i = .sndW4Voice v) ∨ ∃ pv pe, i = .audio pv pe)

/-- What a transaction does to the sequencer, and to the sound decoder, depends on that unit's state alone; so it is
for FrameStore, apart from a blit write and RESET, and for the Blitter, apart from a blit write. A blit write's
effect on FrameStore and Blitter depends on the two together, and RESET's effect on FrameStore on the model's draw
counter, for the colour draw (log entry 9). R209 says it of the sequencer; for the others it is read off the
pseudocode of the transactions (R140 to R149, R160 to R183, R221 to R231, R280), an inference and no rule's words. -/
def Obligations.UnitsAreIndependentButForBlitAndReset : Prop :=
  ∀ (i : Instr) (s s' t t' : State), exec i s = .next t → exec i s' = .next t' →
    (s.seq = s'.seq → t.seq = t'.seq) ∧ (s.sound = s'.sound → t.sound = t'.sound) ∧
    (isBlitWrite i = false → i ≠ .reset → s.frame = s'.frame → t.frame = t'.frame) ∧
    (isBlitWrite i = false → s.blit = s'.blit → t.blit = t'.blit) ∧
    (isBlitWrite i = true → s.frame = s'.frame → s.blit = s'.blit → t.frame = t'.frame ∧ t.blit = t'.blit) ∧
    (i = .reset → s.draws = s'.draws → t.frame = t'.frame)

/-- R251: a configuration whose band lacks 69 or 70, or whose pitch table has not 8 entries, is refused as a whole;
any other starts the machine at reset; the model's own parameters are accepted. That the model's own parameters meet
the constraints is its choice (decision D25, log entry 12). -/
def Obligations.BadConfigurationIsRefused : Prop :=
  (∀ c : ConfigRecord, (69 ∈ c.noiseBand ∧ 70 ∈ c.noiseBand ∧ c.pitchTable.length = 8) →
    configure c = .next State.reset) ∧
  (∀ c : ConfigRecord, ¬ (69 ∈ c.noiseBand ∧ 70 ∈ c.noiseBand ∧ c.pitchTable.length = 8) →
    configure c = .refused .badConfiguration) ∧
  configure ConfigRecord.inForce = .next State.reset

/-- R78: under an address map that routes every window, an access of the direct, blit or colour window is the
transaction of its offset, an access of a port the port's transaction, and an access of the sound window the SND.W or
SND.R of its offset. The map is open (decision D2, log entry 19). -/
def Obligations.RoutedAccessesNameTheirTransaction : Prop :=
  ∀ m : AddrMap, addrMapRoutes m →
    let write := fun addr v i => ∃ x, busWrite m addr v = some x ∧ decodeAccess x = .ok i
    let read := fun addr i => ∃ x, busRead m addr = some x ∧ decodeAccess x = .ok i
    (∃ base, ∀ k, k < 16384 → ∀ v, write (base + k) v (.pixW (BitVec.ofNat 16 k) v) ∧
      read (base + k) (.pixR (BitVec.ofNat 16 k))) ∧
    (∃ base, ∀ k, k < 16384 → ∀ v, write (base + k) v (.blitW (BitVec.ofNat 16 k) v) ∧
      read (base + k) (.blitR (BitVec.ofNat 16 k))) ∧
    (∃ base, ∀ k, k < 4096 → ∀ v, write (base + k) v (.colW (BitVec.ofNat 16 k) v) ∧
      read (base + k) (.colR (BitVec.ofNat 16 k))) ∧
    (∃ port, ∀ v, write port v (.ctrlW v) ∧ read port .ctrlR) ∧
    (∃ port, ∀ v, write port v (.collW v) ∧ read port .collR) ∧
    (∃ port, ∀ v, write port v (.irqenW v) ∧ read port .irqenR) ∧
    (∃ port, ∀ v, write port v (.nmienW v) ∧ read port .nmienR) ∧
    (∃ port, ∀ v, write port v (.nmidisW v) ∧ read port .nmidisR) ∧
    ∃ base, ∀ k, k < 8 → ∀ v, write (base + k) v (decodeSoundWrite (BitVec.ofNat 3 k) v) ∧
      read (base + k) (.sndR (BitVec.ofNat 3 k))
end

