-- ==== Sys2Proof/Laws/Decode.lean ====
section
/-! SUPPORT. The fields of the words the encoder builds. -/

namespace Sys2Proof

@[simp] theorem wordIsRead_txnWord (dir : Bool) (p : BitVec 7) (a : BusAddr) (v : Byte) :
    wordIsRead (txnWord dir p a v) = dir := by
  simp only [wordIsRead, txnWord, BitVec.getLsbD_append]; simp

@[simp] theorem wordPort_txnWord (dir : Bool) (p : BitVec 7) (a : BusAddr) (v : Byte) :
    wordPort (txnWord dir p a v) = p.toNat := by
  have : (txnWord dir p a v).extractLsb' 24 7 = p := by
    apply BitVec.eq_of_getLsbD_eq
    intro i hi
    simp only [txnWord, BitVec.getLsbD_extractLsb', BitVec.getLsbD_append]
    interval_cases i <;> simp
  rw [wordPort, this]

@[simp] theorem wordAddr_txnWord (dir : Bool) (p : BitVec 7) (a : BusAddr) (v : Byte) :
    wordAddr (txnWord dir p a v) = a := by
  apply BitVec.eq_of_getLsbD_eq
  intro i hi
  simp only [wordAddr, txnWord, BitVec.getLsbD_extractLsb', BitVec.getLsbD_append]
  interval_cases i <;> simp

@[simp] theorem wordData_txnWord (dir : Bool) (p : BitVec 7) (a : BusAddr) (v : Byte) :
    wordData (txnWord dir p a v) = v := by
  apply BitVec.eq_of_getLsbD_eq
  intro i hi
  simp only [wordData, txnWord, BitVec.getLsbD_extractLsb', BitVec.getLsbD_append]
  interval_cases i <;> simp

@[simp] theorem wordOffset_txnWord (dir : Bool) (p : BitVec 7) (o : BitVec 3) (v : Byte) :
    wordOffset (txnWord dir p (o.setWidth 16) v) = o := by
  apply BitVec.eq_of_getLsbD_eq
  intro i hi
  simp only [wordOffset, txnWord, BitVec.getLsbD_extractLsb', BitVec.getLsbD_append]
  interval_cases i <;> simp

/-! ## The control byte -/

@[simp] theorem controlByte_op (op : BitVec 4) (flip : Bool) (shift : BitVec 2) (drop : Bool) :
    (controlByte op flip shift drop).extractLsb' 4 4 = op := by
  apply BitVec.eq_of_getLsbD_eq
  intro i hi
  simp only [controlByte, BitVec.getLsbD_extractLsb', BitVec.getLsbD_append]
  interval_cases i <;> simp

@[simp] theorem controlByte_flip (op : BitVec 4) (flip : Bool) (shift : BitVec 2) (drop : Bool) :
    (controlByte op flip shift drop).getLsbD 3 = flip := by
  simp only [controlByte, BitVec.getLsbD_append]; simp

@[simp] theorem controlByte_shift (op : BitVec 4) (flip : Bool) (shift : BitVec 2) (drop : Bool) :
    (controlByte op flip shift drop).extractLsb' 1 2 = shift := by
  apply BitVec.eq_of_getLsbD_eq
  intro i hi
  simp only [controlByte, BitVec.getLsbD_extractLsb', BitVec.getLsbD_append]
  interval_cases i <;> simp

@[simp] theorem controlByte_drop (op : BitVec 4) (flip : Bool) (shift : BitVec 2) (drop : Bool) :
    (controlByte op flip shift drop).getLsbD 0 = drop := by
  simp only [controlByte, BitVec.getLsbD_append]; simp

/-- A control byte is put together again from its four fields. -/
theorem controlByte_fields (ctl : Byte) :
    controlByte (ctl.extractLsb' 4 4) (ctl.getLsbD 3) (ctl.extractLsb' 1 2) (ctl.getLsbD 0) = ctl := by
  apply BitVec.eq_of_getLsbD_eq
  intro i hi
  simp only [controlByte, BitVec.getLsbD_append]
  interval_cases i <;> simp

@[simp] theorem controlWord_control (a : BusAddr) (v ctl : Byte) : (a ++ v ++ ctl).extractLsb' 0 8 = ctl := by
  apply BitVec.eq_of_getLsbD_eq
  intro i hi
  simp only [BitVec.getLsbD_extractLsb', BitVec.getLsbD_append]
  interval_cases i <;> simp

@[simp] theorem controlWord_data (a : BusAddr) (v ctl : Byte) : (a ++ v ++ ctl).extractLsb' 8 8 = v := by
  apply BitVec.eq_of_getLsbD_eq
  intro i hi
  simp only [BitVec.getLsbD_extractLsb', BitVec.getLsbD_append]
  interval_cases i <;> simp

@[simp] theorem controlWord_addr (a : BusAddr) (v ctl : Byte) : (a ++ v ++ ctl).extractLsb' 16 16 = a := by
  apply BitVec.eq_of_getLsbD_eq
  intro i hi
  simp only [BitVec.getLsbD_extractLsb', BitVec.getLsbD_append]
  interval_cases i <;> simp

end Sys2Proof
end

