-- ==== Sys2Proof/Laws/Memory.lean ====
section
/-! SUPPORT. Laws of the memory operations: read after write, the canonical form is kept, and two memories in
canonical form that read the same are equal. -/

namespace Sys2Proof.Machine

variable {β : Type}

@[simp] theorem Memory.read_put_same (u : Nat → β) (m : List (Nat × β)) (k : Nat) (v : β) :
    Memory.read u (Memory.put m k v) k = v := by
  induction m with
  | nil => simp [Memory.put, Memory.read]
  | cons c m ih =>
    simp only [Memory.put]
    split
    · simp [Memory.read]
    · split
      · simp [Memory.read]
      · rename_i h2; simp [Memory.read, Ne.symm h2, ih]

theorem Memory.read_put_other (u : Nat → β) (m : List (Nat × β)) {j k : Nat} (v : β) (h : j ≠ k) :
    Memory.read u (Memory.put m k v) j = Memory.read u m j := by
  induction m with
  | nil => simp [Memory.put, Memory.read, Ne.symm h]
  | cons c m ih =>
    simp only [Memory.put]
    split
    · simp [Memory.read, Ne.symm h]
    · split
      · rename_i h2; subst h2; simp [Memory.read, Ne.symm h]
      · simp [Memory.read, ih]

@[simp] theorem Memory.read_erase_same (u : Nat → β) (m : List (Nat × β)) (k : Nat) :
    Memory.read u (Memory.erase m k) k = u k := by
  induction m with
  | nil => simp [Memory.erase, Memory.read]
  | cons c m ih =>
    simp only [Memory.erase]
    split
    · exact ih
    · rename_i h; simp [Memory.read, h, ih]

theorem Memory.read_erase_other (u : Nat → β) (m : List (Nat × β)) {j k : Nat} (h : j ≠ k) :
    Memory.read u (Memory.erase m k) j = Memory.read u m j := by
  induction m with
  | nil => simp [Memory.erase]
  | cons c m ih =>
    simp only [Memory.erase]
    split
    · rename_i h2; rw [ih]; simp [Memory.read, h2, Ne.symm h]
    · simp [Memory.read, ih]

variable [DecidableEq β]

/-- Read after write: the written address gives the value, every other address what it gave before. -/
theorem Memory.read_write (u : Nat → β) (m : List (Nat × β)) (j k : Nat) (v : β) :
    Memory.read u (Memory.write u m k v) j = if j = k then v else Memory.read u m j := by
  unfold Memory.write
  split
  · rename_i hv
    split
    · rename_i hj; subst hj; simp [hv]
    · rename_i hj; exact Memory.read_erase_other u m hj
  · split
    · rename_i hj; subst hj; simp
    · rename_i hj; exact Memory.read_put_other u m v hj

@[simp] theorem Memory.read_write_same (u : Nat → β) (m : List (Nat × β)) (k : Nat) (v : β) :
    Memory.read u (Memory.write u m k v) k = v := by simp [Memory.read_write]

omit [DecidableEq β] in
theorem Memory.mem_put {m : List (Nat × β)} {k : Nat} {v : β} {d : Nat × β} (h : d ∈ Memory.put m k v) :
    d = (k, v) ∨ d ∈ m := by
  induction m with
  | nil => simpa [Memory.put] using h
  | cons c m ih =>
    simp only [Memory.put] at h
    split at h
    · simpa using h
    · split at h
      · rcases List.mem_cons.1 h with h | h
        · exact .inl h
        · exact .inr (List.mem_cons_of_mem _ h)
      · rcases List.mem_cons.1 h with h | h
        · exact .inr (by simp [h])
        · rcases ih h with h | h
          · exact .inl h
          · exact .inr (List.mem_cons_of_mem _ h)

omit [DecidableEq β] in
theorem Memory.mem_erase {m : List (Nat × β)} {k : Nat} {d : Nat × β} (h : d ∈ Memory.erase m k) : d ∈ m := by
  induction m with
  | nil => simp [Memory.erase] at h
  | cons c m ih =>
    simp only [Memory.erase] at h
    split at h
    · exact List.mem_cons_of_mem _ (ih h)
    · rcases List.mem_cons.1 h with h | h
      · simp [h]
      · exact List.mem_cons_of_mem _ (ih h)

omit [DecidableEq β] in
theorem Memory.rising_put {m : List (Nat × β)} (k : Nat) (v : β) (h : m.Pairwise fun c d => c.1 < d.1) :
    (Memory.put m k v).Pairwise fun c d => c.1 < d.1 := by
  induction m with
  | nil => simp [Memory.put]
  | cons c m ih =>
    rw [List.pairwise_cons] at h
    simp only [Memory.put]
    split
    · rename_i hk
      refine List.pairwise_cons.2 ⟨fun d hd => ?_, List.pairwise_cons.2 h⟩
      rcases List.mem_cons.1 hd with rfl | hd
      · exact hk
      · exact Nat.lt_trans hk (h.1 d hd)
    · split
      · rename_i hk; subst hk
        exact List.pairwise_cons.2 ⟨fun d hd => h.1 d hd, h.2⟩
      · refine List.pairwise_cons.2 ⟨fun d hd => ?_, ih h.2⟩
        rcases Memory.mem_put hd with rfl | hd
        · simp only; omega
        · exact h.1 d hd

omit [DecidableEq β] in
theorem Memory.rising_erase {m : List (Nat × β)} (k : Nat) (h : m.Pairwise fun c d => c.1 < d.1) :
    (Memory.erase m k).Pairwise fun c d => c.1 < d.1 := by
  induction m with
  | nil => simp [Memory.erase]
  | cons c m ih =>
    rw [List.pairwise_cons] at h
    simp only [Memory.erase]
    split
    · exact ih h.2
    · exact List.pairwise_cons.2 ⟨fun d hd => h.1 d (Memory.mem_erase hd), ih h.2⟩

/-- A write below the size keeps the canonical form. -/
theorem Memory.wf_write {size : Nat} {u : Nat → β} {m : List (Nat × β)} {k : Nat} (v : β)
    (h : Memory.wf size u m) (hk : k < size) : Memory.wf size u (Memory.write u m k v) := by
  unfold Memory.write
  split
  · exact ⟨Memory.rising_erase k h.1, fun c hc => h.2 c (Memory.mem_erase hc)⟩
  · rename_i hv
    refine ⟨Memory.rising_put k v h.1, fun c hc => ?_⟩
    rcases Memory.mem_put hc with rfl | hc
    · exact ⟨hk, hv⟩
    · exact h.2 c hc

theorem Memory.wf_nil (size : Nat) (u : Nat → β) : Memory.wf size u [] := by
  simp [Memory.wf]

omit [DecidableEq β] in
theorem Memory.read_below {u : Nat → β} {m : List (Nat × β)} {k : Nat} (h : ∀ c ∈ m, k < c.1) :
    Memory.read u m k = u k := by
  induction m with
  | nil => rfl
  | cons c m ih =>
    have := h c (by simp)
    rw [Memory.read, if_neg (by omega)]
    exact ih fun d hd => h d (List.mem_cons_of_mem _ hd)

/-- Two memories in canonical form that read the same everywhere are the same list. -/
theorem Memory.eq_of_read {size : Nat} {u : Nat → β} {m n : List (Nat × β)} (hm : Memory.wf size u m)
    (hn : Memory.wf size u n) (h : ∀ k, Memory.read u m k = Memory.read u n k) : m = n := by
  induction m generalizing n with
  | nil =>
    cases n with
    | nil => rfl
    | cons d n =>
      have := h d.1
      simp only [Memory.read, if_true] at this
      exact absurd this.symm (hn.2 d (by simp)).2
  | cons c m ih =>
    have hm1 := List.pairwise_cons.1 hm.1
    cases n with
    | nil =>
      have := h c.1
      simp only [Memory.read, if_true] at this
      exact absurd this (hm.2 c (by simp)).2
    | cons d n =>
      have hn1 := List.pairwise_cons.1 hn.1
      rcases Nat.lt_trichotomy c.1 d.1 with hlt | heq | hlt
      · have hc := h c.1
        rw [Memory.read, if_pos rfl, Memory.read_below] at hc
        · exact absurd hc (hm.2 c (by simp)).2
        · intro e he
          rcases List.mem_cons.1 he with rfl | he
          · exact hlt
          · exact Nat.lt_trans hlt (hn1.1 e he)
      · have hcd : c = d := by
          have hc := h c.1
          rw [Memory.read, if_pos rfl, Memory.read, if_pos heq.symm] at hc
          exact Prod.ext heq hc
        subst hcd
        congr 1
        refine ih ⟨hm1.2, fun e he => hm.2 e (List.mem_cons_of_mem _ he)⟩
          ⟨hn1.2, fun e he => hn.2 e (List.mem_cons_of_mem _ he)⟩ fun k => ?_
        by_cases hk : c.1 = k
        · subst hk
          rw [Memory.read_below hm1.1, Memory.read_below hn1.1]
        · have := h k
          rwa [Memory.read, if_neg hk, Memory.read, if_neg hk] at this
      · have hd := h d.1
        rw [Memory.read_below, Memory.read, if_pos rfl] at hd
        · exact absurd hd.symm (hn.2 d (by simp)).2
        · intro e he
          rcases List.mem_cons.1 he with rfl | he
          · exact hlt
          · exact Nat.lt_trans hlt (hm1.1 e he)

/-- In canonical form nothing is listed from the size on. -/
theorem Memory.read_above {size : Nat} {u : Nat → β} {m : List (Nat × β)} (hm : Memory.wf size u m) {k : Nat}
    (hk : size ≤ k) : Memory.read u m k = u k := by
  have h : ∀ c ∈ m, c.1 ≠ k := fun c hc => by have := (hm.2 c hc).1; omega
  clear hm
  induction m with
  | nil => rfl
  | cons c m ih =>
    rw [Memory.read, if_neg (h c (by simp))]
    exact ih fun d hd => h d (List.mem_cons_of_mem _ hd)

/-- Equal reads below the size are enough. -/
theorem Memory.eq_of_read_below {size : Nat} {u : Nat → β} {m n : List (Nat × β)} (hm : Memory.wf size u m)
    (hn : Memory.wf size u n) (h : ∀ k, k < size → Memory.read u m k = Memory.read u n k) : m = n := by
  refine Memory.eq_of_read hm hn fun k => ?_
  by_cases hk : k < size
  · exact h k hk
  · rw [Memory.read_above hm (by omega), Memory.read_above hn (by omega)]

end Sys2Proof.Machine
end

