-- ==== Sys2Proof/Laws/FrameStore.lean ====
section
/-! SUPPORT. Laws of the FrameStore: what each of its operations leaves in the planes and the framebuffer, and that
each keeps the canonical form. The framebuffer is read by its key 8 * a + i, pixel i of pixel address a. -/

namespace Sys2Proof.Machine

/-! ## Addressing -/

/-- The closed form of R142: 32 * (row / 4) + column. -/
theorem colorAddrOf_toNat (a : PixAddr) : (colorAddrOf a).toNat = 32 * (a.toNat / 128) + a.toNat % 32 := by
  have h : colorAddrOf a = a.extractLsb' 7 7 ++ a.extractLsb' 0 5 := by
    apply BitVec.eq_of_getLsbD_eq
    intro i hi
    rw [BitVec.getLsbD_append]
    interval_cases i <;> simp [colorAddrOf]
  rw [h, BitVec.toNat_append, ← Nat.shiftLeft_add_eq_or_of_lt]
  · simp [Nat.shiftLeft_eq, Nat.shiftRight_eq_div_pow]; omega
  · simp; omega

theorem pixAddrAt_toNat (c : ColAddr) (j : BitVec 16) (hj : j.toNat < 4) :
    (pixAddrAt c j).toNat = 128 * (c.toNat / 32) + 32 * j.toNat + c.toNat % 32 := by
  have h : pixAddrAt c j = c.extractLsb' 5 7 ++ (j.extractLsb' 0 2 ++ c.extractLsb' 0 5) := by
    obtain rfl | rfl | rfl | rfl : j = 0 ∨ j = 1 ∨ j = 2 ∨ j = 3 := by bv_omega
    all_goals
      apply BitVec.eq_of_getLsbD_eq
      intro i hi
      rw [BitVec.getLsbD_append, BitVec.getLsbD_append]
      interval_cases i <;> simp [pixAddrAt]
  have hc := c.isLt
  rw [h, BitVec.toNat_append, BitVec.toNat_append, ← Nat.shiftLeft_add_eq_or_of_lt,
    ← Nat.shiftLeft_add_eq_or_of_lt]
  · simp [Nat.shiftLeft_eq, Nat.shiftRight_eq_div_pow]; omega
  · simp; omega
  · rw [← Nat.shiftLeft_add_eq_or_of_lt] <;> simp [Nat.shiftLeft_eq] <;> omega

theorem pixelRow_eq (a : PixAddr) : pixelRow a = a.toNat / 32 := by
  simp [pixelRow, Nat.shiftRight_eq_div_pow]

theorem byteColumn_eq (a : PixAddr) : byteColumn a = a.toNat % 32 := by
  have := Nat.and_two_pow_sub_one_eq_mod a.toNat 5
  simpa [byteColumn] using this

theorem pixMask_toNat (a : BusAddr) : (pixMask a).toNat = a.toNat % 16384 := by simp [pixMask]

theorem colMask_toNat (c : BusAddr) : (colMask c).toNat = c.toNat % 4096 := by simp [colMask]

theorem fbKey_pixel (a : PixAddr) : fbKey (pixelRow a) (pixelLeft a) = 8 * a.toNat := by
  rw [fbKey, pixelLeft, pixelRow_eq, byteColumn_eq, Config.columns]; omega

/-! ## One byte or element -/

@[simp] theorem FrameStore.setPix_col (f : FrameStore) (a : PixAddr) (v : Byte) : (f.setPix a v).col = f.col := rfl
@[simp] theorem FrameStore.setPix_colDraw (f : FrameStore) (a : PixAddr) (v : Byte) :
    (f.setPix a v).colDraw = f.colDraw := rfl
@[simp] theorem FrameStore.setPix_fb (f : FrameStore) (a : PixAddr) (v : Byte) : (f.setPix a v).fb = f.fb := rfl
@[simp] theorem FrameStore.setCol_pix (f : FrameStore) (c : ColAddr) (v : Byte) : (f.setCol c v).pix = f.pix := rfl
@[simp] theorem FrameStore.setCol_colDraw (f : FrameStore) (c : ColAddr) (v : Byte) :
    (f.setCol c v).colDraw = f.colDraw := rfl
@[simp] theorem FrameStore.setCol_fb (f : FrameStore) (c : ColAddr) (v : Byte) : (f.setCol c v).fb = f.fb := rfl

theorem FrameStore.readPix_setPix (f : FrameStore) (a b : PixAddr) (v : Byte) :
    (f.setPix a v).readPix b = if b = a then v else f.readPix b := by
  simp only [FrameStore.readPix, FrameStore.setPix, Memory.read_write, ← BitVec.toNat_inj]

theorem FrameStore.readCol_setCol (f : FrameStore) (c d : ColAddr) (v : Byte) :
    (f.setCol c v).readCol d = if d = c then v else f.readCol d := by
  simp only [FrameStore.readCol, FrameStore.setCol, Memory.read_write, ← BitVec.toNat_inj]

/-! ## The compositor -/

theorem read_writeFb (fb : List (Nat × Index)) (y x : Nat) (n : Index) (k : Nat) :
    Memory.read fbUnlisted (writeFb fb y x n) k = if k = fbKey y x then n else Memory.read fbUnlisted fb k := by
  simp only [writeFb, Memory.read_write]

theorem read_composite_first (fb : List (Nat × Index)) (x y : Nat) (p cb : Byte) (k n : Nat) :
    Memory.read fbUnlisted ((List.range n).foldl (fun m i => writeFb m y (x + i) (compose p cb i)) fb) k =
      if fbKey y x ≤ k ∧ k < fbKey y x + n then compose p cb (k - fbKey y x) else Memory.read fbUnlisted fb k := by
  induction n with
  | zero => simp
  | succ n ih =>
    simp only [List.range_succ, List.foldl_append, List.foldl_cons, List.foldl_nil, read_writeFb, ih]
    have hkey : fbKey y (x + n) = fbKey y x + n := by simp [fbKey]; omega
    rw [hkey]
    split
    · rename_i h; subst h; simp
    · congr 1; simp only [eq_iff_iff]; omega

/-- The eight elements from the byte's key on take the compositor's pixels; every other element keeps its value. -/
theorem read_compositeByte (fb : List (Nat × Index)) (x y : Nat) (p cb : Byte) (k : Nat) :
    Memory.read fbUnlisted (compositeByte x y p cb fb) k =
      if fbKey y x ≤ k ∧ k < fbKey y x + 8 then compose p cb (k - fbKey y x) else Memory.read fbUnlisted fb k :=
  read_composite_first fb x y p cb k 8

/-- Pixel k % 8 of address k / 8 after recompositing address a. -/
theorem read_compositeAt (fb : List (Nat × Index)) (a : PixAddr) (p cb : Byte) (k : Nat) :
    Memory.read fbUnlisted (compositeAt a p cb fb) k =
      if k / 8 = a.toNat then compose p cb (k % 8) else Memory.read fbUnlisted fb k := by
  rw [compositeAt, read_compositeByte, fbKey_pixel]
  by_cases h : k / 8 = a.toNat
  · rw [if_pos (by omega), if_pos h]; congr 1; omega
  · rw [if_neg (by omega), if_neg h]

/-- The key of the element at row y, column x. -/
theorem fbKey_div (y x : Nat) : fbKey y x / 8 = 32 * y + x / 8 := by
  rw [fbKey, Config.columns]; omega

theorem fbKey_mod (y x : Nat) : fbKey y x % 8 = x % 8 := by
  rw [fbKey, Config.columns]; omega

theorem elementAddr_toNat (y x : Nat) (hy : y < 512) (hx : x < 256) : (elementAddr y x).toNat = 32 * y + x / 8 := by
  simp [elementAddr]; omega

/-! ## Direct pixel write (R140) -/

@[simp] theorem FrameStore.writePixelByte_colDraw (f : FrameStore) (a : PixAddr) (v : Byte) :
    (f.writePixelByte a v).colDraw = f.colDraw := rfl

theorem FrameStore.readPix_writePixelByte (f : FrameStore) (a b : PixAddr) (v : Byte) :
    (f.writePixelByte a v).readPix b = if b = a then v else f.readPix b := f.readPix_setPix a b v

@[simp] theorem FrameStore.readCol_writePixelByte (f : FrameStore) (a : PixAddr) (c : ColAddr) (v : Byte) :
    (f.writePixelByte a v).readCol c = f.readCol c := rfl

theorem FrameStore.fb_writePixelByte (f : FrameStore) (a : PixAddr) (v : Byte) (k : Nat) :
    Memory.read fbUnlisted (f.writePixelByte a v).fb k =
      if k / 8 = a.toNat then compose v (f.readCol (colorAddrOf a)) (k % 8) else Memory.read fbUnlisted f.fb k :=
  read_compositeAt f.fb a v _ k

/-! ## Colour write (R146) -/

/-- A pixel address is one of pixAddrs c exactly when its colour address is c (R143). -/
theorem mem_pixAddrs (a : PixAddr) (c : ColAddr) : a ∈ pixAddrs c ↔ colorAddrOf a = c := by
  have ha := a.isLt
  have hc := c.isLt
  simp only [pixAddrs, List.mem_cons, List.not_mem_nil, or_false, ← BitVec.toNat_inj, colorAddrOf_toNat]
  have h0 := pixAddrAt_toNat c 0 (by decide)
  have h1 := pixAddrAt_toNat c 1 (by decide)
  have h2 := pixAddrAt_toNat c 2 (by decide)
  have h3 := pixAddrAt_toNat c 3 (by decide)
  simp only [show (0 : BitVec 16).toNat = 0 from rfl, show (1 : BitVec 16).toNat = 1 from rfl,
    show (2 : BitVec 16).toNat = 2 from rfl, show (3 : BitVec 16).toNat = 3 from rfl] at h0 h1 h2 h3
  omega

/-- Recompositing a list of pixel addresses, each with its own pixel byte and the one colour byte. -/
theorem read_composite_list (l : List PixAddr) (pix : PixAddr → Byte) (v : Byte) (fb : List (Nat × Index)) (k : Nat) :
    Memory.read fbUnlisted (l.foldl (fun m a => compositeAt a (pix a) v m) fb) k =
      if k < 131072 ∧ BitVec.ofNat 14 (k / 8) ∈ l then compose (pix (BitVec.ofNat 14 (k / 8))) v (k % 8)
      else Memory.read fbUnlisted fb k := by
  induction l generalizing fb with
  | nil => simp
  | cons a l ih =>
    have ha := a.isLt
    rw [List.foldl_cons, ih, read_compositeAt]
    have hka : k < 131072 → (BitVec.ofNat 14 (k / 8) = a ↔ k / 8 = a.toNat) := fun hk => by
      rw [← BitVec.toNat_inj, BitVec.toNat_ofNat, Nat.mod_eq_of_lt (by omega)]
    by_cases hk : k < 131072
    · by_cases h : k / 8 = a.toNat
      · rw [(hka hk).2 h]; simp [h, hk]
      · have : BitVec.ofNat 14 (k / 8) ≠ a := fun e => h ((hka hk).1 e)
        simp [this, h]
    · rw [if_neg (by omega), if_neg (by omega), if_neg (fun e => hk e.1)]

@[simp] theorem FrameStore.writeColorByte_colDraw (f : FrameStore) (c : ColAddr) (v : Byte) :
    (f.writeColorByte c v).colDraw = f.colDraw := rfl

@[simp] theorem FrameStore.readPix_writeColorByte (f : FrameStore) (c : ColAddr) (v : Byte) (b : PixAddr) :
    (f.writeColorByte c v).readPix b = f.readPix b := rfl

theorem FrameStore.readCol_writeColorByte (f : FrameStore) (c d : ColAddr) (v : Byte) :
    (f.writeColorByte c v).readCol d = if d = c then v else f.readCol d := f.readCol_setCol c d v

theorem FrameStore.fb_writeColorByte (f : FrameStore) (c : ColAddr) (v : Byte) (k : Nat) :
    Memory.read fbUnlisted (f.writeColorByte c v).fb k =
      if k < 131072 ∧ colorAddrOf (BitVec.ofNat 14 (k / 8)) = c then
        compose (f.readPix (BitVec.ofNat 14 (k / 8))) v (k % 8)
      else Memory.read fbUnlisted f.fb k := by
  rw [FrameStore.writeColorByte, read_composite_list]
  simp only [mem_pixAddrs]

/-! ## Full refresh (R147) -/

@[simp] theorem FrameStore.fullRefresh_pix (f : FrameStore) : f.fullRefresh.pix = f.pix := rfl
@[simp] theorem FrameStore.fullRefresh_col (f : FrameStore) : f.fullRefresh.col = f.col := rfl
@[simp] theorem FrameStore.fullRefresh_colDraw (f : FrameStore) : f.fullRefresh.colDraw = f.colDraw := rfl
@[simp] theorem FrameStore.readPix_fullRefresh (f : FrameStore) (a : PixAddr) :
    f.fullRefresh.readPix a = f.readPix a := rfl
@[simp] theorem FrameStore.readCol_fullRefresh (f : FrameStore) (c : ColAddr) :
    f.fullRefresh.readCol c = f.readCol c := rfl

theorem FrameStore.read_refreshed (f : FrameStore) (n : Nat) (hn : n ≤ 16384) (k : Nat) :
    Memory.read fbUnlisted (f.refreshed n) k =
      if k / 8 < n then
        compose (f.readPix (BitVec.ofNat 14 (k / 8))) (f.readCol (colorAddrOf (BitVec.ofNat 14 (k / 8)))) (k % 8)
      else Memory.read fbUnlisted f.fb k := by
  induction n with
  | zero => simp [FrameStore.refreshed]
  | succ n ih =>
    have hmod : (BitVec.ofNat 14 n).toNat = n := by simp; omega
    rw [FrameStore.refreshed, read_compositeAt, hmod, ih (by omega)]
    by_cases h : k / 8 = n
    · rw [if_pos h, if_pos (by omega), h]
    · rw [if_neg h]
      by_cases h' : k / 8 < n
      · rw [if_pos h', if_pos (by omega)]
      · rw [if_neg h', if_neg (by omega)]

theorem FrameStore.fb_fullRefresh (f : FrameStore) (k : Nat) :
    Memory.read fbUnlisted f.fullRefresh.fb k =
      if k / 8 < 16384 then
        compose (f.readPix (BitVec.ofNat 14 (k / 8))) (f.readCol (colorAddrOf (BitVec.ofNat 14 (k / 8)))) (k % 8)
      else Memory.read fbUnlisted f.fb k :=
  f.read_refreshed 16384 (Nat.le_refl _) k

/-! ## The canonical form is kept -/

/-- The framebuffer's canonical form. -/
abbrev fbWf (fb : List (Nat × Index)) : Prop := Memory.wf (Config.rows * Config.columns) fbUnlisted fb

theorem fbWf_compositeAt {fb : List (Nat × Index)} (h : fbWf fb) (a : PixAddr) (p cb : Byte) :
    fbWf (compositeAt a p cb fb) := by
  have hkey := fbKey_pixel a
  have ha := a.isLt
  have hfirst : ∀ n, n ≤ 8 → fbWf ((List.range n).foldl
      (fun m i => writeFb m (pixelRow a) (pixelLeft a + i) (compose p cb i)) fb) := by
    intro n hn
    induction n with
    | zero => simpa using h
    | succ n ih =>
      simp only [List.range_succ, List.foldl_append, List.foldl_cons, List.foldl_nil]
      refine Memory.wf_write _ (ih (by omega)) ?_
      simp only [fbKey, Config.columns, Config.rows] at *
      omega
  exact hfirst 8 (Nat.le_refl _)

theorem FrameStore.wf_setPix {f : FrameStore} (h : f.wf) (a : PixAddr) (v : Byte) : (f.setPix a v).wf :=
  ⟨Memory.wf_write _ h.1 a.isLt, h.2.1, h.2.2⟩

theorem FrameStore.wf_setCol {f : FrameStore} (h : f.wf) (c : ColAddr) (v : Byte) : (f.setCol c v).wf :=
  ⟨h.1, Memory.wf_write _ h.2.1 c.isLt, h.2.2⟩

theorem FrameStore.wf_writePixelByte {f : FrameStore} (h : f.wf) (a : PixAddr) (v : Byte) :
    (f.writePixelByte a v).wf :=
  ⟨(FrameStore.wf_setPix h a v).1, h.2.1, fbWf_compositeAt h.2.2 a v _⟩

theorem fbWf_composite_list {fb : List (Nat × Index)} (l : List PixAddr) (pix : PixAddr → Byte) (v : Byte)
    (h : fbWf fb) : fbWf (l.foldl (fun m a => compositeAt a (pix a) v m) fb) := by
  induction l generalizing fb with
  | nil => exact h
  | cons a l ih => rw [List.foldl_cons]; exact ih (fbWf_compositeAt h a (pix a) v)

theorem FrameStore.wf_writeColorByte {f : FrameStore} (h : f.wf) (c : ColAddr) (v : Byte) :
    (f.writeColorByte c v).wf :=
  ⟨h.1, (FrameStore.wf_setCol h c v).2.1, fbWf_composite_list (pixAddrs c) f.readPix v h.2.2⟩

theorem FrameStore.fbWf_refreshed {f : FrameStore} (h : fbWf f.fb) (n : Nat) : fbWf (f.refreshed n) := by
  induction n with
  | zero => exact h
  | succ n ih => rw [FrameStore.refreshed]; exact fbWf_compositeAt ih _ _ _

theorem FrameStore.wf_fullRefresh {f : FrameStore} (h : f.wf) : f.fullRefresh.wf :=
  ⟨h.1, h.2.1, FrameStore.fbWf_refreshed h.2.2 Config.pixBytes⟩

theorem FrameStore.wf_cleared (n : Nat) : FrameStore.wf { pix := [], col := [], colDraw := n, fb := [] } :=
  ⟨Memory.wf_nil _ _, Memory.wf_nil _ _, Memory.wf_nil _ _⟩

/-! ## The framebuffer invariant, by key -/

/-- R145 by key: element k is pixel k % 8 of pixel address k / 8. -/
theorem FrameStore.composed_iff (f : FrameStore) :
    f.composed ↔ ∀ k, k < 131072 → Memory.read fbUnlisted f.fb k =
      compose (f.readPix (BitVec.ofNat 14 (k / 8))) (f.readCol (colorAddrOf (BitVec.ofNat 14 (k / 8)))) (k % 8) := by
  constructor
  · intro h k hk
    have := h (BitVec.ofNat 14 (k / 8)) (k % 8) (by omega)
    have hn : (BitVec.ofNat 14 (k / 8)).toNat = k / 8 := by simp; omega
    rw [hn] at this
    rw [← this, FrameStore.readFb, fbKey, Config.columns]
    congr 1; omega
  · intro h a i hi
    have ha := a.isLt
    have := h (8 * a.toNat + i) (by omega)
    rw [FrameStore.readFb, fbKey, Config.columns]
    have e1 : 256 * (a.toNat / 32) + (8 * (a.toNat % 32) + i) = 8 * a.toNat + i := by omega
    have e2 : (8 * a.toNat + i) / 8 = a.toNat := by omega
    have e3 : (8 * a.toNat + i) % 8 = i := by omega
    rw [e1, this, e2, e3, BitVec.ofNat_toNat, BitVec.setWidth_eq]

/-! ## Elements by row and column -/

theorem elementAddr_eq (y x : Nat) : elementAddr y x = BitVec.ofNat 14 (fbKey y x / 8) := by
  rw [elementAddr, fbKey_div]

theorem elementAddr_eq_iff {y x : Nat} (hy : y < 512) (hx : x < 256) (a : PixAddr) :
    elementAddr y x = a ↔ fbKey y x / 8 = a.toNat := by
  rw [← BitVec.toNat_inj, elementAddr_toNat y x hy hx, fbKey_div]

theorem FrameStore.readFb_writePixelByte (f : FrameStore) (a : PixAddr) (v : Byte) {y x : Nat} (hy : y < 512)
    (hx : x < 256) : (f.writePixelByte a v).readFb y x =
      if elementAddr y x = a then compose v (f.readCol (colorAddrOf a)) (x % 8) else f.readFb y x := by
  rw [FrameStore.readFb, FrameStore.fb_writePixelByte, fbKey_mod]
  simp only [elementAddr_eq_iff hy hx, FrameStore.readFb]

theorem FrameStore.readFb_writeColorByte (f : FrameStore) (c : ColAddr) (v : Byte) {y x : Nat} (hy : y < 512)
    (hx : x < 256) : (f.writeColorByte c v).readFb y x =
      if elementAddr y x ∈ pixAddrs c then compose (f.readPix (elementAddr y x)) v (x % 8) else f.readFb y x := by
  have hk : fbKey y x < 131072 := by rw [fbKey, Config.columns]; omega
  rw [FrameStore.readFb, FrameStore.fb_writeColorByte, fbKey_mod, ← elementAddr_eq]
  simp only [mem_pixAddrs, hk, true_and, FrameStore.readFb]

theorem FrameStore.readFb_fullRefresh (f : FrameStore) {y x : Nat} (hy : y < 512) (hx : x < 256) :
    f.fullRefresh.readFb y x =
      compose (f.readPix (elementAddr y x)) (f.readCol (colorAddrOf (elementAddr y x))) (x % 8) := by
  rw [FrameStore.readFb, FrameStore.fb_fullRefresh, fbKey_mod, ← elementAddr_eq, if_pos]
  rw [fbKey, Config.columns]; omega

/-! ## Equal reads, equal stores -/

/-- Two stores in canonical form that read alike everywhere are equal. -/
theorem FrameStore.eq_of_reads {f g : FrameStore} (hf : f.wf) (hg : g.wf) (hd : f.colDraw = g.colDraw)
    (hp : ∀ a, f.readPix a = g.readPix a) (hc : ∀ c, f.readCol c = g.readCol c)
    (hb : ∀ k, k < 131072 → Memory.read fbUnlisted f.fb k = Memory.read fbUnlisted g.fb k) : f = g := by
  obtain ⟨fp, fc, fd, ff⟩ := f
  obtain ⟨gp, gc, gd, gf⟩ := g
  simp only at hd; subst hd
  obtain rfl : fp = gp := Memory.eq_of_read_below hf.1 hg.1 fun k hk => by
    have := hp (BitVec.ofNat 14 k)
    simp only [FrameStore.readPix, BitVec.toNat_ofNat] at this
    rwa [Nat.mod_eq_of_lt (by simpa [Config.pixBytes, Config.colBytes] using hk)] at this
  obtain rfl : fc = gc := Memory.eq_of_read_below hf.2.1 hg.2.1 fun k hk => by
    have := hc (BitVec.ofNat 12 k)
    simp only [FrameStore.readCol, BitVec.toNat_ofNat] at this
    rwa [Nat.mod_eq_of_lt (by simpa [Config.pixBytes, Config.colBytes] using hk)] at this
  obtain rfl : ff = gf := Memory.eq_of_read_below hf.2.2 hg.2.2 hb
  rfl

/-- In the canonical form, a composed store is left as it is by writing the pixel byte it already holds. -/
theorem FrameStore.writePixelByte_same {f : FrameStore} (hf : f.wf) (hc : f.composed) (a : PixAddr) :
    f.writePixelByte a (f.readPix a) = f := by
  refine FrameStore.eq_of_reads (FrameStore.wf_writePixelByte hf _ _) hf rfl ?_ (fun _ => rfl) ?_
  · intro b
    rw [FrameStore.readPix_writePixelByte]
    split
    · rename_i h; rw [h]
    · rfl
  · intro k hk
    rw [FrameStore.fb_writePixelByte]
    split
    · rename_i h
      rw [(FrameStore.composed_iff f).1 hc k hk, h, BitVec.ofNat_toNat, BitVec.setWidth_eq]
    · rfl

/-- In the canonical form, a composed store is left as it is by a full refresh. -/
theorem FrameStore.fullRefresh_same {f : FrameStore} (hf : f.wf) (hc : f.composed) : f.fullRefresh = f := by
  refine FrameStore.eq_of_reads (FrameStore.wf_fullRefresh hf) hf rfl (fun _ => rfl) (fun _ => rfl) ?_
  intro k hk
  rw [FrameStore.fb_fullRefresh, if_pos (by omega), (FrameStore.composed_iff f).1 hc k hk]

/-- A byte without foreground pixels is background under every colour byte. -/
theorem compose_zero (cb : Byte) (i : Nat) : compose 0x00 cb i = 0 := by
  unfold compose
  rw [if_pos (by simp)]
  rfl

/-- A cleared store is composed, whatever the colour bytes are. -/
theorem FrameStore.composed_cleared (n : Nat) : FrameStore.composed { pix := [], col := [], colDraw := n, fb := [] } :=
  fun _ i _ => (compose_zero _ i).symm

end Sys2Proof.Machine
end

