-- ==== Sys2Proof/Laws/State.lean ====
section
/-! SUPPORT. One lemma per field of State per update, so that no later proof unfolds a record update. -/

namespace Sys2Proof.Machine

@[simp] theorem State.withFrame_frame (s : State) (f : FrameStore) : (s.withFrame f).frame = f := rfl
@[simp] theorem State.withFrame_blit (s : State) (f : FrameStore) : (s.withFrame f).blit = s.blit := rfl
@[simp] theorem State.withFrame_seq (s : State) (f : FrameStore) : (s.withFrame f).seq = s.seq := rfl
@[simp] theorem State.withFrame_sound (s : State) (f : FrameStore) : (s.withFrame f).sound = s.sound := rfl
@[simp] theorem State.withFrame_host (s : State) (f : FrameStore) : (s.withFrame f).host = s.host := rfl
@[simp] theorem State.withFrame_out (s : State) (f : FrameStore) : (s.withFrame f).out = s.out := rfl
@[simp] theorem State.withFrame_draws (s : State) (f : FrameStore) : (s.withFrame f).draws = s.draws := rfl

@[simp] theorem State.withBlit_frame (s : State) (b : Blitter) : (s.withBlit b).frame = s.frame := rfl
@[simp] theorem State.withBlit_blit (s : State) (b : Blitter) : (s.withBlit b).blit = b := rfl
@[simp] theorem State.withBlit_seq (s : State) (b : Blitter) : (s.withBlit b).seq = s.seq := rfl
@[simp] theorem State.withBlit_sound (s : State) (b : Blitter) : (s.withBlit b).sound = s.sound := rfl
@[simp] theorem State.withBlit_host (s : State) (b : Blitter) : (s.withBlit b).host = s.host := rfl
@[simp] theorem State.withBlit_out (s : State) (b : Blitter) : (s.withBlit b).out = s.out := rfl
@[simp] theorem State.withBlit_draws (s : State) (b : Blitter) : (s.withBlit b).draws = s.draws := rfl

@[simp] theorem State.withSeq_frame (s : State) (q : Sequencer) : (s.withSeq q).frame = s.frame := rfl
@[simp] theorem State.withSeq_blit (s : State) (q : Sequencer) : (s.withSeq q).blit = s.blit := rfl
@[simp] theorem State.withSeq_seq (s : State) (q : Sequencer) : (s.withSeq q).seq = q := rfl
@[simp] theorem State.withSeq_sound (s : State) (q : Sequencer) : (s.withSeq q).sound = s.sound := rfl
@[simp] theorem State.withSeq_host (s : State) (q : Sequencer) : (s.withSeq q).host = s.host := rfl
@[simp] theorem State.withSeq_out (s : State) (q : Sequencer) : (s.withSeq q).out = s.out := rfl
@[simp] theorem State.withSeq_draws (s : State) (q : Sequencer) : (s.withSeq q).draws = s.draws := rfl

@[simp] theorem State.withSound_frame (s : State) (d : Sound) : (s.withSound d).frame = s.frame := rfl
@[simp] theorem State.withSound_blit (s : State) (d : Sound) : (s.withSound d).blit = s.blit := rfl
@[simp] theorem State.withSound_seq (s : State) (d : Sound) : (s.withSound d).seq = s.seq := rfl
@[simp] theorem State.withSound_sound (s : State) (d : Sound) : (s.withSound d).sound = d := rfl
@[simp] theorem State.withSound_host (s : State) (d : Sound) : (s.withSound d).host = s.host := rfl
@[simp] theorem State.withSound_out (s : State) (d : Sound) : (s.withSound d).out = s.out := rfl
@[simp] theorem State.withSound_draws (s : State) (d : Sound) : (s.withSound d).draws = s.draws := rfl

@[simp] theorem State.emit_frame (s : State) (o : Output) : (s.emit o).frame = s.frame := rfl
@[simp] theorem State.emit_blit (s : State) (o : Output) : (s.emit o).blit = s.blit := rfl
@[simp] theorem State.emit_seq (s : State) (o : Output) : (s.emit o).seq = s.seq := rfl
@[simp] theorem State.emit_sound (s : State) (o : Output) : (s.emit o).sound = s.sound := rfl
@[simp] theorem State.emit_host (s : State) (o : Output) : (s.emit o).host = s.host := rfl
@[simp] theorem State.emit_out (s : State) (o : Output) : (s.emit o).out = s.out ++ [o] := rfl
@[simp] theorem State.emit_draws (s : State) (o : Output) : (s.emit o).draws = s.draws := rfl

@[simp] theorem State.emitCommands_frame (s : State) (cs : List Command) : (s.emitCommands cs).frame = s.frame := rfl
@[simp] theorem State.emitCommands_blit (s : State) (cs : List Command) : (s.emitCommands cs).blit = s.blit := rfl
@[simp] theorem State.emitCommands_seq (s : State) (cs : List Command) : (s.emitCommands cs).seq = s.seq := rfl
@[simp] theorem State.emitCommands_sound (s : State) (cs : List Command) : (s.emitCommands cs).sound = s.sound := rfl
@[simp] theorem State.emitCommands_host (s : State) (cs : List Command) : (s.emitCommands cs).host = s.host := rfl
@[simp] theorem State.emitCommands_out (s : State) (cs : List Command) : (s.emitCommands cs).out = s.out ++ cs.map .command := rfl
@[simp] theorem State.emitCommands_draws (s : State) (cs : List Command) : (s.emitCommands cs).draws = s.draws := rfl

@[simp] theorem State.returnValue_frame (s : State) (v : Byte) : (s.returnValue v).frame = s.frame := rfl
@[simp] theorem State.returnValue_blit (s : State) (v : Byte) : (s.returnValue v).blit = s.blit := rfl
@[simp] theorem State.returnValue_seq (s : State) (v : Byte) : (s.returnValue v).seq = s.seq := rfl
@[simp] theorem State.returnValue_sound (s : State) (v : Byte) : (s.returnValue v).sound = s.sound := rfl
@[simp] theorem State.returnValue_host (s : State) (v : Byte) : (s.returnValue v).host = s.host := rfl
@[simp] theorem State.returnValue_out (s : State) (v : Byte) : (s.returnValue v).out = s.out ++ [.value v] := rfl
@[simp] theorem State.returnValue_draws (s : State) (v : Byte) : (s.returnValue v).draws = s.draws := rfl

@[simp] theorem State.returnUndefined_frame (s : State) : (s.returnUndefined).frame = s.frame := rfl
@[simp] theorem State.returnUndefined_blit (s : State) : (s.returnUndefined).blit = s.blit := rfl
@[simp] theorem State.returnUndefined_seq (s : State) : (s.returnUndefined).seq = s.seq := rfl
@[simp] theorem State.returnUndefined_sound (s : State) : (s.returnUndefined).sound = s.sound := rfl
@[simp] theorem State.returnUndefined_host (s : State) : (s.returnUndefined).host = s.host := rfl
@[simp] theorem State.returnUndefined_out (s : State) : (s.returnUndefined).out = s.out ++ [.value (Config.undefinedRead s.draws)] := rfl
@[simp] theorem State.returnUndefined_draws (s : State) : (s.returnUndefined).draws = s.draws + 1 := rfl

@[simp] theorem State.deliver_frame (s : State) (r : Request) : (s.deliver r).frame = s.frame := rfl
@[simp] theorem State.deliver_blit (s : State) (r : Request) : (s.deliver r).blit = s.blit := rfl
@[simp] theorem State.deliver_seq (s : State) (r : Request) : (s.deliver r).seq = s.seq := rfl
@[simp] theorem State.deliver_sound (s : State) (r : Request) : (s.deliver r).sound = s.sound := rfl
@[simp] theorem State.deliver_host (s : State) (r : Request) : (s.deliver r).host = s.host := rfl
@[simp] theorem State.deliver_out (s : State) (r : Request) : (s.deliver r).out = s.out ++ [.request r] := rfl
@[simp] theorem State.deliver_draws (s : State) (r : Request) : (s.deliver r).draws = s.draws := rfl

@[simp] theorem State.issue_frame (s : State) (x : Access) : (s.issue x).frame = s.frame := rfl
@[simp] theorem State.issue_blit (s : State) (x : Access) : (s.issue x).blit = s.blit := rfl
@[simp] theorem State.issue_seq (s : State) (x : Access) : (s.issue x).seq = s.seq := rfl
@[simp] theorem State.issue_sound (s : State) (x : Access) : (s.issue x).sound = s.sound := rfl
@[simp] theorem State.issue_host (s : State) (x : Access) : (s.issue x).host = x :: s.host := rfl
@[simp] theorem State.issue_out (s : State) (x : Access) : (s.issue x).out = s.out := rfl
@[simp] theorem State.issue_draws (s : State) (x : Access) : (s.issue x).draws = s.draws := rfl

@[simp] theorem State.machineReset_frame (s : State) : s.machineReset.frame = { pix := [], col := [], colDraw := s.draws, fb := [] } := rfl
@[simp] theorem State.machineReset_blit (s : State) : s.machineReset.blit = State.reset.blit := rfl
@[simp] theorem State.machineReset_seq (s : State) : s.machineReset.seq = State.reset.seq := rfl
@[simp] theorem State.machineReset_sound (s : State) : s.machineReset.sound = State.reset.sound := rfl
@[simp] theorem State.machineReset_host (s : State) : s.machineReset.host = s.host := rfl
@[simp] theorem State.machineReset_out (s : State) : s.machineReset.out = s.out := rfl
@[simp] theorem State.machineReset_draws (s : State) : s.machineReset.draws = s.draws + 1 := rfl

@[simp] theorem State.soundStep_frame (s : State) (r : Sound × List Command) : (s.soundStep r).frame = s.frame := rfl
@[simp] theorem State.soundStep_blit (s : State) (r : Sound × List Command) : (s.soundStep r).blit = s.blit := rfl
@[simp] theorem State.soundStep_seq (s : State) (r : Sound × List Command) : (s.soundStep r).seq = s.seq := rfl
@[simp] theorem State.soundStep_sound (s : State) (r : Sound × List Command) : (s.soundStep r).sound = r.1 := rfl
@[simp] theorem State.soundStep_host (s : State) (r : Sound × List Command) : (s.soundStep r).host = s.host := rfl
@[simp] theorem State.soundStep_out (s : State) (r : Sound × List Command) : (s.soundStep r).out = s.out ++ r.2.map .command := rfl
@[simp] theorem State.soundStep_draws (s : State) (r : Sound × List Command) : (s.soundStep r).draws = s.draws := rfl

end Sys2Proof.Machine
end

