-- ==== Sys2Proof/Laws/Blitter.lean ====
section
/-! SUPPORT. Laws of the Blitter: the flip unit, the control byte's fields, the logic operation each op selects,
and what the shared blit write does. -/

namespace Sys2Proof.Machine

theorem rev8_bit (v : Byte) (i : Nat) (hi : i < 8) : (rev8 v).getLsbD i = v.getLsbD (7 - i) := by
  simp only [rev8, BitVec.getLsbD_append]
  interval_cases i <;> simp

/-- Bit reversal is its own inverse (spec/95_test_vectors.md V-SRC-3). -/
theorem rev8_rev8 (v : Byte) : rev8 (rev8 v) = v := by
  apply BitVec.eq_of_getLsbD_eq
  intro i hi
  rw [rev8_bit _ _ hi, rev8_bit _ _ (by omega)]
  congr 1; omega

@[simp] theorem controlOp_controlByte (op : BitVec 4) (flip : Bool) (shift : BitVec 2) (drop : Bool) :
    controlOp (controlByte op flip shift drop) = op := controlByte_op op flip shift drop

theorem collisionAfter_eq (c : Bool) (src dst : Byte) : collisionAfter c src dst = (c || src &&& dst != 0) := by
  cases c <;> simp [collisionAfter]

/-! ## The shared blit write -/

variable (combine : Byte → Byte → Byte) (ctl : Byte) (a : PixAddr) (v : Byte) (s : State)

@[simp] theorem State.blitWrite_frame : (s.blitWrite combine ctl a v).frame =
    s.frame.writePixelByte a (combine (shiftAndFlip ctl s.blit.latch v) (s.frame.readPix a)) := rfl
@[simp] theorem State.blitWrite_ctrl : (s.blitWrite combine ctl a v).blit.ctrl = s.blit.ctrl := rfl
@[simp] theorem State.blitWrite_latch : (s.blitWrite combine ctl a v).blit.latch = v := rfl
@[simp] theorem State.blitWrite_collision : (s.blitWrite combine ctl a v).blit.collision =
    collisionAfter s.blit.collision (shiftAndFlip ctl s.blit.latch v) (s.frame.readPix a) := rfl
@[simp] theorem State.blitWrite_seq : (s.blitWrite combine ctl a v).seq = s.seq := rfl
@[simp] theorem State.blitWrite_sound : (s.blitWrite combine ctl a v).sound = s.sound := rfl
@[simp] theorem State.blitWrite_host : (s.blitWrite combine ctl a v).host = s.host := rfl
@[simp] theorem State.blitWrite_out : (s.blitWrite combine ctl a v).out = s.out := rfl
@[simp] theorem State.blitWrite_draws : (s.blitWrite combine ctl a v).draws = s.draws := rfl

end Sys2Proof.Machine
end

