-- ==== Sys2Proof/Laws/Dispatch.lean ====
section
/-! SUPPORT. exec, one equation per instruction, so that no proof unfolds the dispatch. -/

namespace Sys2Proof.Machine

@[simp] theorem exec_pixW (a : BusAddr) (v : Byte) (s : State) :
    exec (.pixW a v) s = execPixW a v s := rfl
@[simp] theorem exec_pixR (a : BusAddr) (s : State) :
    exec (.pixR a) s = execPixR a s := rfl
@[simp] theorem exec_blitW (a : BusAddr) (v : Byte) (s : State) :
    exec (.blitW a v) s = execBlitW a v s := rfl
@[simp] theorem exec_blitR (a : BusAddr) (s : State) :
    exec (.blitR a) s = execBlitR a s := rfl
@[simp] theorem exec_colW (c : BusAddr) (v : Byte) (s : State) :
    exec (.colW c v) s = execColW c v s := rfl
@[simp] theorem exec_colR (c : BusAddr) (s : State) :
    exec (.colR c) s = execColR c s := rfl
@[simp] theorem exec_ctrlW (v : Byte) (s : State) :
    exec (.ctrlW v) s = execCtrlW v s := rfl
@[simp] theorem exec_ctrlR (s : State) :
    exec .ctrlR s = execCtrlR s := rfl
@[simp] theorem exec_collR (s : State) :
    exec .collR s = execCollR s := rfl
@[simp] theorem exec_collW (v : Byte) (s : State) :
    exec (.collW v) s = execCollW v s := rfl
@[simp] theorem exec_irqenW (v : Byte) (s : State) :
    exec (.irqenW v) s = execIrqenW v s := rfl
@[simp] theorem exec_irqenR (s : State) :
    exec .irqenR s = execIrqenR s := rfl
@[simp] theorem exec_nmienW (v : Byte) (s : State) :
    exec (.nmienW v) s = execNmienW v s := rfl
@[simp] theorem exec_nmienR (s : State) :
    exec .nmienR s = execNmienR s := rfl
@[simp] theorem exec_nmidisW (v : Byte) (s : State) :
    exec (.nmidisW v) s = execNmidisW v s := rfl
@[simp] theorem exec_nmidisR (s : State) :
    exec .nmidisR s = execNmidisR s := rfl
@[simp] theorem exec_sndW0 (v : Byte) (s : State) :
    exec (.sndW0 v) s = execSndW0 v s := rfl
@[simp] theorem exec_sndW1 (v : Byte) (s : State) :
    exec (.sndW1 v) s = execSndW1 v s := rfl
@[simp] theorem exec_sndW2 (v : Byte) (s : State) :
    exec (.sndW2 v) s = execSndW2 v s := rfl
@[simp] theorem exec_sndW3Arm (v : Byte) (s : State) :
    exec (.sndW3Arm v) s = execSndW3Arm v s := rfl
@[simp] theorem exec_sndW5Confirm (v : Byte) (s : State) :
    exec (.sndW5Confirm v) s = execSndW5Confirm v s := rfl
@[simp] theorem exec_sndW6Noise (v : Byte) (s : State) :
    exec (.sndW6Noise v) s = execSndW6Noise v s := rfl
@[simp] theorem exec_sndW7 (v : Byte) (s : State) :
    exec (.sndW7 v) s = execSndW7 v s := rfl
@[simp] theorem exec_sndW4Voice (v : Byte) (s : State) :
    exec (.sndW4Voice v) s = execSndW4Voice v s := rfl
@[simp] theorem exec_sndW4Pitch (v : Byte) (s : State) :
    exec (.sndW4Pitch v) s = execSndW4Pitch v s := rfl
@[simp] theorem exec_sndR (o : BitVec 3) (s : State) :
    exec (.sndR o) s = execSndR o s := rfl
@[simp] theorem exec_tick (s : State) :
    exec .tick s = execTick s := rfl
@[simp] theorem exec_audio (playV : Bool) (playE : Bool) (s : State) :
    exec (.audio playV playE) s = execAudio playV playE s := rfl
@[simp] theorem exec_refresh (s : State) :
    exec .refresh s = execRefresh s := rfl
@[simp] theorem exec_reset (s : State) :
    exec .reset s = execReset s := rfl
@[simp] theorem exec_op0Copy (flip : Bool) (shift : BitVec 2) (drop : Bool) (a : BusAddr) (v : Byte) (s : State) :
    exec (.op0Copy flip shift drop a v) s = execOp0Copy flip shift drop a v s := rfl
@[simp] theorem exec_op1Or (flip : Bool) (shift : BitVec 2) (drop : Bool) (a : BusAddr) (v : Byte) (s : State) :
    exec (.op1Or flip shift drop a v) s = execOp1Or flip shift drop a v s := rfl
@[simp] theorem exec_op2OrNotD (flip : Bool) (shift : BitVec 2) (drop : Bool) (a : BusAddr) (v : Byte) (s : State) :
    exec (.op2OrNotD flip shift drop a v) s = execOp2OrNotD flip shift drop a v s := rfl
@[simp] theorem exec_op3Set (flip : Bool) (shift : BitVec 2) (drop : Bool) (a : BusAddr) (v : Byte) (s : State) :
    exec (.op3Set flip shift drop a v) s = execOp3Set flip shift drop a v s := rfl
@[simp] theorem exec_op4And (flip : Bool) (shift : BitVec 2) (drop : Bool) (a : BusAddr) (v : Byte) (s : State) :
    exec (.op4And flip shift drop a v) s = execOp4And flip shift drop a v s := rfl
@[simp] theorem exec_op5Keep (flip : Bool) (shift : BitVec 2) (drop : Bool) (a : BusAddr) (v : Byte) (s : State) :
    exec (.op5Keep flip shift drop a v) s = execOp5Keep flip shift drop a v s := rfl
@[simp] theorem exec_op6Xnor (flip : Bool) (shift : BitVec 2) (drop : Bool) (a : BusAddr) (v : Byte) (s : State) :
    exec (.op6Xnor flip shift drop a v) s = execOp6Xnor flip shift drop a v s := rfl
@[simp] theorem exec_op7NotSOr (flip : Bool) (shift : BitVec 2) (drop : Bool) (a : BusAddr) (v : Byte) (s : State) :
    exec (.op7NotSOr flip shift drop a v) s = execOp7NotSOr flip shift drop a v s := rfl
@[simp] theorem exec_op8AndNotD (flip : Bool) (shift : BitVec 2) (drop : Bool) (a : BusAddr) (v : Byte) (s : State) :
    exec (.op8AndNotD flip shift drop a v) s = execOp8AndNotD flip shift drop a v s := rfl
@[simp] theorem exec_op9Xor (flip : Bool) (shift : BitVec 2) (drop : Bool) (a : BusAddr) (v : Byte) (s : State) :
    exec (.op9Xor flip shift drop a v) s = execOp9Xor flip shift drop a v s := rfl
@[simp] theorem exec_opANotD (flip : Bool) (shift : BitVec 2) (drop : Bool) (a : BusAddr) (v : Byte) (s : State) :
    exec (.opANotD flip shift drop a v) s = execOpANotD flip shift drop a v s := rfl
@[simp] theorem exec_opBNand (flip : Bool) (shift : BitVec 2) (drop : Bool) (a : BusAddr) (v : Byte) (s : State) :
    exec (.opBNand flip shift drop a v) s = execOpBNand flip shift drop a v s := rfl
@[simp] theorem exec_opCClear (flip : Bool) (shift : BitVec 2) (drop : Bool) (a : BusAddr) (v : Byte) (s : State) :
    exec (.opCClear flip shift drop a v) s = execOpCClear flip shift drop a v s := rfl
@[simp] theorem exec_opDNotSAnd (flip : Bool) (shift : BitVec 2) (drop : Bool) (a : BusAddr) (v : Byte) (s : State) :
    exec (.opDNotSAnd flip shift drop a v) s = execOpDNotSAnd flip shift drop a v s := rfl
@[simp] theorem exec_opENor (flip : Bool) (shift : BitVec 2) (drop : Bool) (a : BusAddr) (v : Byte) (s : State) :
    exec (.opENor flip shift drop a v) s = execOpENor flip shift drop a v s := rfl
@[simp] theorem exec_opFNotS (flip : Bool) (shift : BitVec 2) (drop : Bool) (a : BusAddr) (v : Byte) (s : State) :
    exec (.opFNotS flip shift drop a v) s = execOpFNotS flip shift drop a v s := rfl

end Sys2Proof.Machine
end

