-- ==== Sys2Proof/Laws/PerInstr.lean ====
section
/-! SUPPORT. Statements about every instruction as syntax, one lemma per constructor. The family TableRow: the
words of a well-formed instruction lie in its own row of spec/opcode_table.json. -/

namespace Sys2Proof.Laws.TableRow

/-- Under its row's mask, an instruction's word is its row's match. -/
def Statement (i : Instr) : Prop :=
  i.wellFormed = true → (encode i).access.word &&& (tableRow i).1 = (tableRow i).2

/-- The selector of a transaction word. -/
theorem sel_row (dir : Bool) (p : BitVec 7) (a : BusAddr) (v : Byte) :
    txnWord dir p a v &&& 0xFF000000 = txnWord dir p 0 0 := by
  apply BitVec.eq_of_getLsbD_eq
  intro i hi
  simp only [txnWord, BitVec.getLsbD_and, BitVec.getLsbD_append]
  interval_cases i <;> simp

/-- The selector and offset of a sound write. -/
theorem sound_row (o : BitVec 3) (v : Byte) :
    txnWord false 8 (o.setWidth 16) v &&& 0xFF000700 = txnWord false 8 (o.setWidth 16) 0 := by
  apply BitVec.eq_of_getLsbD_eq
  intro i hi
  simp only [txnWord, BitVec.getLsbD_and, BitVec.getLsbD_append]
  interval_cases i <;> simp

/-- The selector, offset and mode bit of an offset-4 sound write. -/
theorem sound4_row (v : Byte) :
    txnWord false 8 4 v &&& 0xFF000740 = txnWord false 8 4 (if v.getLsbD 6 then 0x40 else 0x00) := by
  apply BitVec.eq_of_getLsbD_eq
  intro i hi
  simp only [txnWord, BitVec.getLsbD_and, BitVec.getLsbD_append]
  cases h : v.getLsbD 6 <;> interval_cases i <;> simp_all

/-- The op field of a control byte. -/
theorem op_row (op : BitVec 4) (flip : Bool) (shift : BitVec 2) (drop : Bool) (a : BusAddr) (v : Byte) :
    (a ++ v ++ controlByte op flip shift drop : BitVec 32) &&& 0xF0 = (0 : BitVec 24) ++ op ++ (0 : BitVec 4) := by
  apply BitVec.eq_of_getLsbD_eq
  intro i hi
  simp only [controlByte, BitVec.getLsbD_and, BitVec.getLsbD_append]
  interval_cases i <;> simp

theorem pixW (a : BusAddr) (v : Byte) : Statement (.pixW a v) := fun _ => sel_row _ _ _ _
theorem pixR (a : BusAddr) : Statement (.pixR a) := fun _ => sel_row _ _ _ _
theorem blitW (a : BusAddr) (v : Byte) : Statement (.blitW a v) := fun _ => sel_row _ _ _ _
theorem blitR (a : BusAddr) : Statement (.blitR a) := fun _ => sel_row _ _ _ _
theorem colW (c : BusAddr) (v : Byte) : Statement (.colW c v) := fun _ => sel_row _ _ _ _
theorem colR (c : BusAddr) : Statement (.colR c) := fun _ => sel_row _ _ _ _
theorem ctrlW (v : Byte) : Statement (.ctrlW v) := fun _ => sel_row _ _ _ _
theorem ctrlR : Statement .ctrlR := fun _ => sel_row _ _ _ _
theorem collR : Statement .collR := fun _ => sel_row _ _ _ _
theorem collW (v : Byte) : Statement (.collW v) := fun _ => sel_row _ _ _ _
theorem irqenW (v : Byte) : Statement (.irqenW v) := fun _ => sel_row _ _ _ _
theorem irqenR : Statement .irqenR := fun _ => sel_row _ _ _ _
theorem nmienW (v : Byte) : Statement (.nmienW v) := fun _ => sel_row _ _ _ _
theorem nmienR : Statement .nmienR := fun _ => sel_row _ _ _ _
theorem nmidisW (v : Byte) : Statement (.nmidisW v) := fun _ => sel_row _ _ _ _
theorem nmidisR : Statement .nmidisR := fun _ => sel_row _ _ _ _
theorem sndW0 (v : Byte) : Statement (.sndW0 v) := fun _ => sound_row 0 v
theorem sndW1 (v : Byte) : Statement (.sndW1 v) := fun _ => sound_row 1 v
theorem sndW2 (v : Byte) : Statement (.sndW2 v) := fun _ => sound_row 2 v
theorem sndW3Arm (v : Byte) : Statement (.sndW3Arm v) := fun _ => sound_row 3 v
theorem sndW5Confirm (v : Byte) : Statement (.sndW5Confirm v) := fun _ => sound_row 5 v
theorem sndW6Noise (v : Byte) : Statement (.sndW6Noise v) := fun _ => sound_row 6 v
theorem sndW7 (v : Byte) : Statement (.sndW7 v) := fun _ => sound_row 7 v
theorem sndW4Voice (v : Byte) : Statement (.sndW4Voice v) := fun h => by
  have h6 : v.getLsbD 6 = false := by simpa [Instr.wellFormed] using h
  have := sound4_row v
  rw [h6] at this
  exact this
theorem sndW4Pitch (v : Byte) : Statement (.sndW4Pitch v) := fun h => by
  have h6 : v.getLsbD 6 = true := by simpa [Instr.wellFormed] using h
  have := sound4_row v
  rw [h6] at this
  exact this
theorem sndR (o : BitVec 3) : Statement (.sndR o) := fun _ => sel_row _ _ _ _
theorem tick : Statement .tick := fun _ => sel_row _ _ _ _
theorem audio (playV : Bool) (playE : Bool) : Statement (.audio playV playE) := fun _ => sel_row _ _ _ _
theorem refresh : Statement .refresh := fun _ => sel_row _ _ _ _
theorem reset : Statement .reset := fun _ => sel_row _ _ _ _
theorem op0Copy (flip : Bool) (shift : BitVec 2) (drop : Bool) (a : BusAddr) (v : Byte) : Statement (.op0Copy flip shift drop a v) := fun _ => op_row 0x0 flip shift drop a v
theorem op1Or (flip : Bool) (shift : BitVec 2) (drop : Bool) (a : BusAddr) (v : Byte) : Statement (.op1Or flip shift drop a v) := fun _ => op_row 0x1 flip shift drop a v
theorem op2OrNotD (flip : Bool) (shift : BitVec 2) (drop : Bool) (a : BusAddr) (v : Byte) : Statement (.op2OrNotD flip shift drop a v) := fun _ => op_row 0x2 flip shift drop a v
theorem op3Set (flip : Bool) (shift : BitVec 2) (drop : Bool) (a : BusAddr) (v : Byte) : Statement (.op3Set flip shift drop a v) := fun _ => op_row 0x3 flip shift drop a v
theorem op4And (flip : Bool) (shift : BitVec 2) (drop : Bool) (a : BusAddr) (v : Byte) : Statement (.op4And flip shift drop a v) := fun _ => op_row 0x4 flip shift drop a v
theorem op5Keep (flip : Bool) (shift : BitVec 2) (drop : Bool) (a : BusAddr) (v : Byte) : Statement (.op5Keep flip shift drop a v) := fun _ => op_row 0x5 flip shift drop a v
theorem op6Xnor (flip : Bool) (shift : BitVec 2) (drop : Bool) (a : BusAddr) (v : Byte) : Statement (.op6Xnor flip shift drop a v) := fun _ => op_row 0x6 flip shift drop a v
theorem op7NotSOr (flip : Bool) (shift : BitVec 2) (drop : Bool) (a : BusAddr) (v : Byte) : Statement (.op7NotSOr flip shift drop a v) := fun _ => op_row 0x7 flip shift drop a v
theorem op8AndNotD (flip : Bool) (shift : BitVec 2) (drop : Bool) (a : BusAddr) (v : Byte) : Statement (.op8AndNotD flip shift drop a v) := fun _ => op_row 0x8 flip shift drop a v
theorem op9Xor (flip : Bool) (shift : BitVec 2) (drop : Bool) (a : BusAddr) (v : Byte) : Statement (.op9Xor flip shift drop a v) := fun _ => op_row 0x9 flip shift drop a v
theorem opANotD (flip : Bool) (shift : BitVec 2) (drop : Bool) (a : BusAddr) (v : Byte) : Statement (.opANotD flip shift drop a v) := fun _ => op_row 0xA flip shift drop a v
theorem opBNand (flip : Bool) (shift : BitVec 2) (drop : Bool) (a : BusAddr) (v : Byte) : Statement (.opBNand flip shift drop a v) := fun _ => op_row 0xB flip shift drop a v
theorem opCClear (flip : Bool) (shift : BitVec 2) (drop : Bool) (a : BusAddr) (v : Byte) : Statement (.opCClear flip shift drop a v) := fun _ => op_row 0xC flip shift drop a v
theorem opDNotSAnd (flip : Bool) (shift : BitVec 2) (drop : Bool) (a : BusAddr) (v : Byte) : Statement (.opDNotSAnd flip shift drop a v) := fun _ => op_row 0xD flip shift drop a v
theorem opENor (flip : Bool) (shift : BitVec 2) (drop : Bool) (a : BusAddr) (v : Byte) : Statement (.opENor flip shift drop a v) := fun _ => op_row 0xE flip shift drop a v
theorem opFNotS (flip : Bool) (shift : BitVec 2) (drop : Bool) (a : BusAddr) (v : Byte) : Statement (.opFNotS flip shift drop a v) := fun _ => op_row 0xF flip shift drop a v

end Sys2Proof.Laws.TableRow
end

