-- ==== Sys2Proof/Laws/Sequencer.lean ====
section
/-! SUPPORT. Laws of the InterruptSequencer: what a tick does, in one lemma. -/

namespace Sys2Proof.Machine

/-- What a tick does to the sequencer: the phase advances and wraps at 8, endOfScreen follows the tick-phase, the
latches stay. -/
theorem Sequencer.tick_fields (q : Sequencer) :
    q.tick.1.phase.toNat = (q.phase.toNat + 1) % 8 ∧
      q.tick.1.endOfScreen = endOfScreenAfter (q.phase.toNat + 1) ∧
        q.tick.1.irqEnabled = q.irqEnabled ∧ q.tick.1.nmiEnabled = q.nmiEnabled := by
  have := q.phase.isLt
  unfold Sequencer.tick
  simp only
  split
  · rename_i h; simp [h]
  · split
    · rename_i h; simp [h]
    · simp

/-- The request of a tick: maskable at tick-phases 4 and 8, non-maskable at the others. -/
theorem Sequencer.tick_request (q : Sequencer) :
    q.tick.2 = if q.phase.toNat + 1 = 4 ∨ q.phase.toNat + 1 = 8 then q.maskable else q.nonMaskable := by
  unfold Sequencer.tick
  simp only
  split
  · rename_i h; simp [h]
  · split
    · rename_i h; simp [h]
    · rename_i h4 h8; simp [h4, h8]

end Sys2Proof.Machine
end

