-- ==== Sys2Proof/Laws/Sound.lean ====
section
/-! SUPPORT. Laws of the SoundTriggerDecoder: what each of its operations can do, one lemma per operation. -/

namespace Sys2Proof.Machine

/-- ARM writes `pending` alone. -/
theorem Sound.arm_eq (d : Sound) (v : Byte) : d.arm v = { d with pending := (d.arm v).pending } := by
  unfold Sound.arm
  split
  · rfl
  · split <;> rfl

/-- VOICE writes `lastVoiceCode` and `voiceBusy` alone. -/
theorem Sound.voice_eq (d : Sound) (v : Byte) : (d.voice v).1 =
    { d with lastVoiceCode := voiceIndex v, voiceBusy := d.voiceBusy || decide (d.deathPhase ≠ .playing) } := by
  unfold Sound.voice
  simp only
  split
  · rename_i h; simp [h]
  · rename_i h; simp [h]

/-- CONFIRM writes `pending`, `lastNoiseCode` and `deathPhase` alone. -/
theorem Sound.confirm_eq (d : Sound) (v : Byte) : (d.confirm v).1 =
    { d with pending := .idle, lastNoiseCode := (d.confirm v).1.lastNoiseCode,
             deathPhase := (d.confirm v).1.deathPhase } := by
  unfold Sound.confirm Sound.confirmAction Sound.confirmDeath Sound.confirmLaserReset
  split
  · cases d.pending <;> rfl
  · rfl

/-- NOISE writes `lastNoiseCode` and `deathPhase` alone. -/
theorem Sound.noise_eq (d : Sound) (v : Byte) : (d.noise v).1 =
    { d with lastNoiseCode := (d.noise v).1.lastNoiseCode, deathPhase := (d.noise v).1.deathPhase } := by
  unfold Sound.noise
  simp only
  generalize (if Config.noiseBand v then v else d.lastNoiseCode) = code
  split <;> rfl

/-- A changed noise code gives at most one command, and it is a StartSample. -/
theorem noiseCommands_cases (code : Byte) (ph : DeathPhase) :
    noiseCommands code ph = [] ∨ ∃ ch id, noiseCommands code ph = [.startSample ch id] := by
  unfold noiseCommands
  split
  · exact .inr ⟨_, _, rfl⟩
  · exact .inl rfl

end Sys2Proof.Machine
end

