-- ==== Sys2Proof/Laws/Step.lean ====
section
/-! SUPPORT. What a step can do, said once. -/

namespace Sys2Proof.Machine

/-- A step on an issued access that names a transaction is exec of that transaction. -/
theorem step_issue {x : Access} {i : Instr} (s : State) (h : decodeAccess x = .ok i) :
    step (s.issue x) = exec i s := by
  rw [step, State.issue_host]
  simp only [h]
  rfl

/-- A step that answers a next state either idles or runs the transaction of the oldest access. -/
theorem step_next {s t : State} (h : step s = .next t) :
    (s.host = [] ∧ t = s) ∨
      ∃ x rest i, s.host = x :: rest ∧ decodeAccess x = .ok i ∧ exec i { s with host := rest } = .next t := by
  unfold step at h
  split at h
  · rename_i hs
    injection h with h
    exact .inl ⟨hs, h.symm⟩
  · rename_i x rest hs
    split at h
    · rename_i i hi
      exact .inr ⟨x, rest, i, hs, hi, h⟩
    · cases h

end Sys2Proof.Machine
end

