-- ==== Sys2Proof/Tests/Slice0.lean ====
section
/-! SUPPORT. Tests of single steps, expected results from spec/95_test_vectors.md and the examples of the rules named
beside them, and for each statement with hypotheses a concrete witness that meets them. -/

namespace Sys2Proof.Tests

open Sys2Proof Sys2Proof.Machine

/-! ## WellFormed -/

theorem test_voice_with_bit6_refused : (Instr.sndW4Voice 0x45).wellFormed = false := by decide
theorem test_pitch_without_bit6_refused : (Instr.sndW4Pitch 0x03).wellFormed = false := by decide
theorem test_voice_accepted : (Instr.sndW4Voice 0x85).wellFormed = true := by decide

/-- R251: a band without 69, one without 70, and a table of 7 entries. -/
theorem test_band_without_69_refused : (ConfigRecord.mk [64, 70] [1, 2, 3, 4, 5, 6, 7, 8]).wellFormed = false := by decide
theorem test_band_without_70_refused : (ConfigRecord.mk [64, 69] [1, 2, 3, 4, 5, 6, 7, 8]).wellFormed = false := by decide
theorem test_seven_pitches_refused :
    configure (ConfigRecord.mk [69, 70] [1, 2, 3, 4, 5, 6, 7]) = .refused .badConfiguration := rfl

/-! ## Decoding: words written out from R102, R103 and R112 -/

theorem test_decode_planes :
    decodeTableWord 32 0b00000000000000001000000011110000 = some (.pixW 0x0080 0xF0) ∧
    decodeTableWord 32 0b10000000000000001010000000000000 = some (.pixR 0x00A0) ∧
    decodeTableWord 32 0b00000001000000010000000011110000 = some (.blitW 0x0100 0xF0) ∧
    decodeTableWord 32 0b10000001000000100000000000000000 = some (.blitR 0x0200) ∧
    decodeTableWord 32 0b00000010000000000010000001011010 = some (.colW 0x0020 0x5A) ∧
    decodeTableWord 32 0b10000010000000000010000000000000 = some (.colR 0x0020) := by decide

theorem test_decode_ports :
    decodeTableWord 32 0x03000090 = some (.ctrlW 0x90) ∧ decodeTableWord 32 0x83000000 = some .ctrlR ∧
    decodeTableWord 32 0x84000000 = some .collR ∧ decodeTableWord 32 0x04000055 = some (.collW 0x55) ∧
    decodeTableWord 32 0x05000001 = some (.irqenW 0x01) ∧ decodeTableWord 32 0x85000000 = some .irqenR ∧
    decodeTableWord 32 0x060000FF = some (.nmienW 0xFF) ∧ decodeTableWord 32 0x86000000 = some .nmienR ∧
    decodeTableWord 32 0x07000001 = some (.nmidisW 0x01) ∧ decodeTableWord 32 0x87000000 = some .nmidisR := by
  decide

theorem test_decode_sound :
    decodeTableWord 32 0x080000FF = some (.sndW0 0xFF) ∧ decodeTableWord 32 0x080001FF = some (.sndW1 0xFF) ∧
    decodeTableWord 32 0x08000219 = some (.sndW2 25) ∧ decodeTableWord 32 0x080003AC = some (.sndW3Arm 172) ∧
    decodeTableWord 32 0x08000405 = some (.sndW4Voice 0x05) ∧ decodeTableWord 32 0x08000443 = some (.sndW4Pitch 0x43) ∧
    decodeTableWord 32 0x08000519 = some (.sndW5Confirm 25) ∧ decodeTableWord 32 0x08000646 = some (.sndW6Noise 70) ∧
    decodeTableWord 32 0x08000719 = some (.sndW7 25) ∧ decodeTableWord 32 0x88000400 = some (.sndR 4) := by decide

/-- R111, V S10: offset 13 is offset 5. -/
theorem test_decode_offset_13 : decodeTableWord 32 0x08000D19 = some (.sndW5Confirm 25) := by decide

theorem test_decode_host_steps :
    decodeTableWord 32 0x09000000 = some .tick ∧ decodeTableWord 32 0x0A000000 = some (.audio false false) ∧
    decodeAccess ⟨0x0A000000, true, false⟩ = .ok (.audio true false) ∧
    decodeTableWord 32 0x0B000000 = some .refresh ∧ decodeTableWord 32 0x0C000000 = some .reset := by decide

/-- R103: op in bits 7:4, flip in bit 3, shift in bits 2:1, drop in bit 0. -/
theorem test_decode_control_low :
    decodeTableWord 8 0b00000010 = some (.op0Copy false 1 false 0 0) ∧
    decodeTableWord 8 0b00010000 = some (.op1Or false 0 false 0 0) ∧
    decodeTableWord 8 0b00100001 = some (.op2OrNotD false 0 true 0 0) ∧
    decodeTableWord 8 0b00110110 = some (.op3Set false 3 false 0 0) ∧
    decodeTableWord 8 0b01001000 = some (.op4And true 0 false 0 0) ∧
    decodeTableWord 8 0b01010100 = some (.op5Keep false 2 false 0 0) ∧
    decodeTableWord 8 0b01101111 = some (.op6Xnor true 3 true 0 0) ∧
    decodeTableWord 8 0b01110000 = some (.op7NotSOr false 0 false 0 0) := by decide

theorem test_decode_control_high :
    decodeTableWord 8 0b10000000 = some (.op8AndNotD false 0 false 0 0) ∧
    decodeTableWord 8 0b10011000 = some (.op9Xor true 0 false 0 0) ∧
    decodeTableWord 8 0b10100101 = some (.opANotD false 2 true 0 0) ∧
    decodeTableWord 8 0b10110000 = some (.opBNand false 0 false 0 0) ∧
    decodeTableWord 8 0b11000010 = some (.opCClear false 1 false 0 0) ∧
    decodeTableWord 8 0b11010000 = some (.opDNotSAnd false 0 false 0 0) ∧
    decodeTableWord 8 0b11101010 = some (.opENor true 1 false 0 0) ∧
    decodeTableWord 8 0b11110001 = some (.opFNotS false 0 true 0 0) := by decide

/-- R102: ports 13 to 127 are none, and a host step has dir 0. -/
theorem test_decode_refuses :
    decodeTableWord 32 0x0D000000 = none ∧ decodeTableWord 32 0x7F000000 = none ∧
    decodeTableWord 32 0x8D000000 = none ∧ decodeTableWord 32 0x89000000 = none ∧
    decodeTableWord 32 0x8C000000 = none := by decide

/-! ## Small states -/

/-- The state an instruction leaves. -/
def after (i : Instr) (s : State) : State :=
  match exec i s with
  | .next t => t
  | .fault _ => s
  | .refused _ => s

/-- Reset, with pixel byte 7 holding p. -/
def withPixel (p : Byte) : State := State.reset.withFrame { State.reset.frame with pix := [(7, p)] }

/-- The same, with a control byte, a latch and the collision flag. -/
def blitting (ctl latch p : Byte) (c : Bool) : State :=
  (withPixel p).withBlit { ctrl := ctl, latch := latch, collision := c }

/-- Reset, with colour byte 0x020 holding 0x5A. -/
def coloured : State := State.reset.withFrame { State.reset.frame with col := [(0x020, 0x5A)] }

/-- Reset, with the sequencer given. -/
def sequenced (p : BitVec 3) (irq nmi : Bool) : State :=
  State.reset.withSeq { phase := p, irqEnabled := irq, nmiEnabled := nmi, endOfScreen := false }

/-- Reset, with the sound registers given. -/
def sounding (code : Byte) (p : Pending) (d : DeathPhase) (busy : Bool) : State :=
  State.reset.withSound { State.reset.sound with
    lastNoiseCode := code, pending := p, deathPhase := d, voiceBusy := busy }

/-! ## FrameStore -/

/-- V 2.3. -/
theorem test_color_address :
    colorAddrOf 0x007F = 0x01F ∧ colorAddrOf 0x0080 = 0x020 ∧ colorAddrOf 0x0123 = 0x043 ∧
    colorAddrOf 0x1FFF = 0x7FF ∧ colorAddrOf 0x2000 = 0x800 ∧ colorAddrOf 0x3FE0 = 0xFE0 := by decide

theorem test_pixel_addresses :
    pixAddrs 0x123 = [0x0483, 0x04A3, 0x04C3, 0x04E3] ∧ pixAddrs 0xFFF = [0x3F9F, 0x3FBF, 0x3FDF, 0x3FFF] := by decide

/-- V 2.4. -/
theorem test_compose :
    (List.range 8).map (compose 0x81 0x5A) = [5, 0, 0, 0, 0, 0, 0, 10] ∧
    (List.range 8).map (compose 0xAA 0x7C) = [7, 0, 7, 0, 12, 0, 12, 0] ∧
    (List.range 8).map (compose 0x0F 0x30) = [0, 0, 0, 0, 0, 0, 0, 0] := by decide

/-- P5: PIX.W 0x0080, 0xF0 under colour 0x5A; V 2.3: an address wraps by the mask. -/
theorem test_pixW : (after (.pixW 0x0080 0xF0) coloured).frame.readFb 4 3 = 5 ∧
    (after (.pixW 0x0080 0xF0) coloured).frame.readFb 4 4 = 0 := by decide
theorem test_pixW_masks : (after (.pixW 0x4080 0x01) coloured).frame.readPix 0x0080 = 0x01 ∧
    (after (.pixW 0x4080 0x01) coloured).frame.readFb 4 7 = 10 := by decide

theorem test_pixR : (after (.pixR 0x4007) (withPixel 0x3C)).out = [.value 0x3C] := by decide

/-- P5: COL.W 0x020, 0x3C after PIX.W 0x0080, 0xF0 and PIX.W 0x00E0, 0x0F. -/
theorem test_colW :
    (after (.colW 0x1020 0x3C) (after (.pixW 0x00E0 0x0F) (after (.pixW 0x0080 0xF0) coloured))).frame.readFb 4 3 = 3 ∧
    (after (.colW 0x1020 0x3C) (after (.pixW 0x00E0 0x0F) (after (.pixW 0x0080 0xF0) coloured))).frame.readFb 7 4 = 12 := by
  decide

theorem test_colR : (after (.colR 0x1020) coloured).out = [.value 0x5A] := by decide

/-- REFRESH rebuilds one element, of a framebuffer left out of step (R147). -/
theorem test_refresh : (after .refresh (withPixel 0x01)).frame.readFb 0 56 = 0 := by
  rw [after, exec_refresh, execRefresh]
  exact FrameStore.readFb_fullRefresh _ (by decide) (by decide)

/-! ## Blitter -/

/-- V 2.1. -/
theorem test_shifter :
    shiftAndFlip 0x00 0x55 0x3C = 0x3C ∧ shiftAndFlip 0x01 0x01 0x00 = 0x80 ∧ shiftAndFlip 0x02 0xF0 0x0F = 0x03 ∧
    shiftAndFlip 0x03 0x01 0x80 = 0x30 ∧ shiftAndFlip 0x05 0xFF 0x00 = 0xF8 ∧ shiftAndFlip 0x07 0xAB 0xCD = 0x57 ∧
    shiftAndFlip 0x07 0x80 0x00 = 0x00 ∧ shiftAndFlip 0x0E 0x5A 0xA5 = 0x56 ∧ shiftAndFlip 0xFF 0xFF 0x00 = 0x7F := by
  decide

/-- V 2.2. -/
theorem test_logic :
    ((List.range 16).map fun op => alu (BitVec.ofNat 4 op) 0xCC 0xAA) =
      [0xCC, 0xEE, 0xDD, 0xFF, 0x88, 0xAA, 0x99, 0xBB, 0x44, 0x66, 0x55, 0x77, 0x00, 0x22, 0x11, 0x33] ∧
    ((List.range 16).map fun op => alu (BitVec.ofNat 4 op) 0x3C 0x0F) =
      [0x3C, 0x3F, 0xFC, 0xFF, 0x0C, 0x0F, 0xCC, 0xCF, 0x30, 0x33, 0xF0, 0xF3, 0x00, 0x03, 0xC0, 0xC3] := by decide

theorem test_ctrlW : (after (.ctrlW 0x90) (blitting 0x00 0xFF 0x0F true)).blit = ⟨0x90, 0x00, false⟩ := by decide

/-- V-SRC-7. -/
theorem test_blitW : (after (.blitW 7 0xFF) (blitting 0x00 0x00 0x0F false)).frame.readPix 7 = 0xFF ∧
    (after (.blitW 7 0xFF) (blitting 0x00 0x00 0x0F false)).blit = ⟨0x00, 0xFF, true⟩ := by decide
/-- V-SRC-8: a CLEAR blit still tests for collision, with S and the old D. -/
theorem test_blitW_clear : (after (.blitW 7 0xAA) (blitting 0xC0 0x00 0x0F false)).frame.readPix 7 = 0x00 ∧
    (after (.blitW 7 0xAA) (blitting 0xC0 0x00 0x0F false)).blit.collision = true ∧
    (after (.blitW 7 0xAA) (blitting 0xC0 0x00 0x55 false)).blit.collision = false := by decide

theorem test_blitR : (after (.blitR 7) (withPixel 0x5A)).out = [.value 0x5A] := by decide

/-- V 2.5, R181. -/
theorem test_collR : (after .collR (blitting 0x00 0x00 0x00 true)).out = [.value 0x80] := by decide
theorem test_status_bytes : statusByte false true = 0x01 ∧ statusByte true true = 0x81 := by decide

theorem test_collW : (after (.collW 0x00) (blitting 0x00 0x00 0x00 true)).blit.collision = true := by decide
theorem test_ctrlR : (after .ctrlR (blitting 0x90 0x11 0x00 true)).blit = ⟨0x90, 0x11, true⟩ := by decide

/-- The byte of the 2.2 row S = 0xCC, D = 0xAA, written by each sub-operation. -/
theorem test_ops_low :
    let s := blitting 0x00 0x00 0xAA false
    (after (.op0Copy false 0 false 7 0xCC) s).frame.readPix 7 = 0xCC ∧
    (after (.op1Or false 0 false 7 0xCC) s).frame.readPix 7 = 0xEE ∧
    (after (.op2OrNotD false 0 false 7 0xCC) s).frame.readPix 7 = 0xDD ∧
    (after (.op3Set false 0 false 7 0xCC) s).frame.readPix 7 = 0xFF ∧
    (after (.op4And false 0 false 7 0xCC) s).frame.readPix 7 = 0x88 ∧
    (after (.op5Keep false 0 false 7 0xCC) s).frame.readPix 7 = 0xAA ∧
    (after (.op6Xnor false 0 false 7 0xCC) s).frame.readPix 7 = 0x99 ∧
    (after (.op7NotSOr false 0 false 7 0xCC) s).frame.readPix 7 = 0xBB := by decide

theorem test_ops_high :
    let s := blitting 0x00 0x00 0xAA false
    (after (.op8AndNotD false 0 false 7 0xCC) s).frame.readPix 7 = 0x44 ∧
    (after (.op9Xor false 0 false 7 0xCC) s).frame.readPix 7 = 0x66 ∧
    (after (.opANotD false 0 false 7 0xCC) s).frame.readPix 7 = 0x55 ∧
    (after (.opBNand false 0 false 7 0xCC) s).frame.readPix 7 = 0x77 ∧
    (after (.opCClear false 0 false 7 0xCC) s).frame.readPix 7 = 0x00 ∧
    (after (.opDNotSAnd false 0 false 7 0xCC) s).frame.readPix 7 = 0x22 ∧
    (after (.opENor false 0 false 7 0xCC) s).frame.readPix 7 = 0x11 ∧
    (after (.opFNotS false 0 false 7 0xCC) s).frame.readPix 7 = 0x33 := by decide

/-- P2 step 9: op 9 with flip, S = rev(0x01) = 0x80. -/
theorem test_op9_flip : (after (.op9Xor true 0 false 7 0x01) (blitting 0x00 0x00 0xFF false)).frame.readPix 7 = 0x7F := by
  decide

/-- P6: the latch carries into the next blit. -/
theorem test_latch_carry : (after (.blitW 7 0xFF) (blitting 0x04 0xFF 0x00 false)).frame.readPix 7 = 0xFF := by decide

/-- One step of the machine, 0 where it stops: the byte read at a after it. -/
def pixelAfterStep (s : State) (a : PixAddr) : Byte :=
  match step s with
  | .next t => t.frame.readPix a
  | .fault _ => 0
  | .refused _ => 0

/-- P2 step 9, with address 7, as a step. -/
theorem test_step_blit : pixelAfterStep ((blitting 0x98 0x00 0xFF false).withFetchWord 32 0x01000701) 7 = 0x7F := by
  decide

/-- R168: a control byte that selects SET, issued as the next access. -/
theorem test_step_control_byte : pixelAfterStep (State.reset.withFetchWord 8 0x30) 0 = 0xFF := by decide

/-! ## InterruptSequencer -/

/-- V-SRC-6 and V 2.6. -/
theorem test_tick_nmi : (after .tick (sequenced 2 true true)).out = [.request .nmi] ∧
    (after .tick (sequenced 2 true true)).seq.phase = 3 := by decide
theorem test_tick_irq : (after .tick (sequenced 7 true true)).out = [.request (.irq Config.irqVector)] ∧
    (after .tick (sequenced 7 true true)).seq.phase = 0 := ⟨rfl, rfl⟩
theorem test_tick_end_of_screen :
    ((List.range 8).map fun p => (after .tick (sequenced (BitVec.ofNat 3 p) true true)).seq.endOfScreen) =
      [false, false, false, true, false, false, true, false] := by decide
theorem test_tick_gated : (after .tick (sequenced 3 false true)).out = [.request .none] ∧
    (after .tick (sequenced 0 true false)).out = [.request .none] := by decide

theorem test_irqenW : (after (.irqenW 0x80) State.reset).seq.irqEnabled = true ∧
    (after (.irqenW 0x00) (sequenced 0 true false)).seq.irqEnabled = false := by decide
theorem test_irqenR : (after .irqenR (sequenced 0 true false)).seq = (sequenced 0 true false).seq := by decide
theorem test_nmienW : (after (.nmienW 0x00) State.reset).seq.nmiEnabled = true := by decide
theorem test_nmidisW : (after (.nmidisW 0x01) (sequenced 0 false true)).seq.nmiEnabled = false := by decide
/-- V 2.5: not a toggle. -/
theorem test_nmienR : (after .nmienR (sequenced 0 false true)).seq.nmiEnabled = true ∧
    (after .nmienR (sequenced 0 false true)).out = [.value Config.nmiPortReadValue] := ⟨rfl, rfl⟩
theorem test_nmidisR : (after .nmidisR (sequenced 0 false false)).seq.nmiEnabled = false ∧
    (after .nmidisR (sequenced 0 false false)).out = [.value Config.nmiPortReadValue] := ⟨rfl, rfl⟩

/-! ## SoundTriggerDecoder (V 2.7) -/

/-- S11, S9. -/
theorem test_ignored_offsets :
    (after (.sndW0 25) (sounding 70 .awaitDeathConfirm .none false)).sound.pending = .awaitDeathConfirm ∧
    (after (.sndW1 25) (sounding 70 .awaitDeathConfirm .none false)).sound.pending = .awaitDeathConfirm ∧
    (after (.sndW2 25) (sounding 70 .awaitDeathConfirm .none false)).sound.pending = .awaitDeathConfirm ∧
    (after (.sndW7 25) (sounding 70 .awaitDeathConfirm .none false)).sound.pending = .awaitDeathConfirm := by decide

/-- S1, S2, S3, S5. -/
theorem test_arm_mismatch :
    (after (.sndW3Arm 172) (sounding 0 .idle .none false)).sound.pending = .idle ∧
    (after (.sndW3Arm 50) (sounding 70 .idle .none false)).sound.pending = .idle ∧
    (after (.sndW3Arm 172) (sounding 69 .idle .none false)).sound.pending = .idle ∧
    (after (.sndW3Arm 0) (sounding 70 .awaitDeathConfirm .none false)).sound.pending = .awaitDeathConfirm := by decide
/-- S4, and step 2 of V-SRC-9. -/
theorem test_arm_match :
    (after (.sndW3Arm 50) (sounding 69 .awaitDeathConfirm .none false)).sound.pending = .awaitLaserResetConfirm ∧
    (after (.sndW3Arm 172) (sounding 70 .idle .none false)).sound.pending = .awaitDeathConfirm := by decide

/-- S15, S16. -/
theorem test_voice : (after (.sndW4Voice 0x05) State.reset).out =
    [.command (.setFrequency Config.voiceChannel Config.voiceFreqReset),
      .command (.startSample Config.voiceChannel (Config.voiceSampleId (0x05 &&& Config.voiceIndexMask)))] ∧
    (after (.sndW4Voice 0x05) State.reset).sound.voiceBusy = true := ⟨rfl, rfl⟩
theorem test_voice_playing : (after (.sndW4Voice 0x05) (sounding 64 .idle .playing false)).out = [] ∧
    (after (.sndW4Voice 0x05) (sounding 64 .idle .playing false)).sound.lastVoiceCode = 0x05 &&& Config.voiceIndexMask :=
  ⟨rfl, rfl⟩

/-- S18, S19. -/
theorem test_pitch : (after (.sndW4Pitch 0xC7) State.reset).sound.voiceFrequencyHz = Config.pitchTable 7 ∧
    (after (.sndW4Pitch 0x78) State.reset).sound.voiceFrequencyHz = Config.pitchTable 0 := ⟨rfl, rfl⟩

/-- S21, S6. -/
theorem test_confirm_death :
    (after (.sndW5Confirm 25) (sounding 70 .awaitDeathConfirm .armedFake false)).sound.lastNoiseCode = 64 ∧
    (after (.sndW5Confirm 25) (sounding 70 .awaitDeathConfirm .armedFake false)).sound.deathPhase = .playing ∧
    (after (.sndW5Confirm 24) (sounding 70 .awaitDeathConfirm .none false)).sound.pending = .idle ∧
    (after (.sndW5Confirm 24) (sounding 70 .awaitDeathConfirm .none false)).sound.lastNoiseCode = 70 := by decide
/-- S20, S7. -/
theorem test_confirm_laser :
    (after (.sndW5Confirm 25) (sounding 69 .awaitLaserResetConfirm .armedFake false)).sound.lastNoiseCode = 64 ∧
    (after (.sndW5Confirm 25) (sounding 69 .awaitLaserResetConfirm .armedFake false)).sound.deathPhase = .armedFake ∧
    (after (.sndW5Confirm 25) (sounding 69 .idle .none false)).sound.lastNoiseCode = 69 := by decide

/-- S14, S13. -/
theorem test_noise : (after (.sndW6Noise 69) (sounding 64 .idle .none false)).sound.lastNoiseCode = 69 ∧
    after (.sndW6Noise 70) (sounding 70 .idle .none false) = sounding 70 .idle .none false := ⟨rfl, rfl⟩

/-- R231. -/
theorem test_sndR : (after (.sndR 4) (sounding 70 .idle .playing true)).sound = (sounding 70 .idle .playing true).sound :=
  rfl

/-- A1, A2, A3, A4. -/
theorem test_audio :
    (after (.audio false false) (sounding 64 .idle .playing true)).sound.voiceBusy = false ∧
    (after (.audio false false) (sounding 64 .idle .playing true)).sound.deathPhase = .none ∧
    (after (.audio true true) (sounding 64 .idle .playing true)).sound.voiceBusy = true ∧
    (after (.audio true true) (sounding 64 .idle .playing true)).sound.deathPhase = .playing := by decide
theorem test_audio_held :
    (after (.audio false false) (sounding 70 .idle .playing true)).sound.deathPhase = .playing ∧
    (after (.audio false false) (sounding 64 .idle .armedReal false)).sound.deathPhase = .armedReal := by decide

/-! ## RESET -/

/-- R280's example, and V 2.6: RESET mid-cycle. -/
theorem test_reset : (after .collR (after .reset (blitting 0x90 0x11 0x33 true))).out = [.value 0x00] ∧
    (after .reset (sequenced 6 true true)).seq.phase = 0 ∧
    (after .reset (withPixel 0x33)).frame.readPix 7 = 0x00 := by decide

/-! ## Witnesses: for each statement with hypotheses, a state and operands that meet them -/

theorem witness_StepRunsTheOldestAccess :
    (State.reset.issue ⟨0x09000000, false, false⟩).host = ⟨0x09000000, false, false⟩ :: [] ∧
    decodeAccess ⟨0x09000000, false, false⟩ = .ok .tick ∧ State.reset.host = [] ∧
    decodeAccess ⟨0x0D000000, false, false⟩ = .error .noSuchPort ∧
    decodeAccess ⟨0x89000000, false, false⟩ = .error .readOfHostStep := by decide

theorem witness_FetchedTableWordRuns :
    decodeTableWord 32 0x0C000000 = some .reset ∧ 255 < 256 ∧
    decodeTableWord 8 255 = some (.opFNotS true 3 true 0 0) := by decide

theorem witness_DecodeInvertsEncode : (Instr.sndW4Pitch 0x43).wellFormed = true ∧
    (Instr.op9Xor true 2 true 0xFFFF 0xFF).wellFormed = true := by decide

theorem witness_DecodedInstructionsAreWellFormed :
    decode ⟨.txn, ⟨0x08000443, false, false⟩⟩ = .ok (.sndW4Pitch 0x43) := by decide

/-- Reset with pixel byte 7 written by PIX.W. -/
def written : State := State.reset.withFrame (State.reset.frame.writePixelByte 7 0x81)

theorem witness_StepKeepsMemoryCanonical : written.frame.wf ∧
    step (written.issue ⟨0x00000782, false, false⟩) = .next (after (.pixW 7 0x82) written) :=
  ⟨FrameStore.wf_writePixelByte (FrameStore.wf_cleared 0) 7 0x81, rfl⟩

theorem witness_FramebufferIsTheCompositorsFunction : State.reset.frame.composed ∧
    step (State.reset.issue ⟨0x0B000000, false, false⟩) = .next (after .refresh State.reset) :=
  ⟨FrameStore.composed_cleared 0, rfl⟩

theorem witness_StepKeepsEndOfScreenMatched :
    (sequenced 3 true true).seq.endOfScreenMatches ∧ (Sequencer.mk 7 true true true).endOfScreenMatches ∧
    step ((sequenced 3 true true).issue ⟨0x09000000, false, false⟩) = .next (after .tick (sequenced 3 true true)) := by
  refine ⟨?_, ?_, rfl⟩ <;> unfold Sequencer.endOfScreenMatches <;> decide

/-- The invariant clauses of PIX.W and REFRESH: reset meets them. -/
theorem witness_PixWriteStoresAndComposites : State.reset.Inv ∧ State.reset.frame.readPix (pixMask 0xFFFF) = 0x00 := by
  refine ⟨⟨FrameStore.wf_cleared 0, FrameStore.composed_cleared 0, ?_⟩, rfl⟩
  unfold Sequencer.endOfScreenMatches
  decide

/-- The first and the last pixel of a byte, and the first and the last bit of S. -/
theorem witness_ComposeSelectsTheNibble : (0 < 8 ∧ compose 0x81 0x5A 0 = 5) ∧ 7 < 8 ∧ compose 0x81 0x5A 7 = 10 := by decide

theorem witness_ShiftAndFlipIsAWindow : (0 < 8 ∧ (shiftAndFlip 0x01 0x01 0x00).getLsbD 0 = false) ∧
    7 < 8 ∧ (shiftAndFlip 0x01 0x01 0x00).getLsbD 7 = true := by decide

theorem witness_StatusReadPacksTwoFlags : (1 ≤ 1 ∧ 1 ≤ 6 ∧ (statusByte true true).getLsbD 1 = false) ∧
    1 ≤ 6 ∧ 6 ≤ 6 ∧ (statusByte true true).getLsbD 6 = false := by decide

/-- The last row and column, and a state that meets the invariant. -/
theorem witness_RefreshRebuildsTheFramebuffer : 511 < 512 ∧ 255 < 256 ∧ State.reset.Inv :=
  ⟨by decide, by decide, witness_PixWriteStoresAndComposites.1⟩

/-- The last element, and one of the elements of colour byte 0xFFF. -/
theorem witness_ColWriteStoresAndComposites : elementAddr 511 255 = 0x3FFF ∧ elementAddr 511 255 ∈ pixAddrs (colMask 0xFFFF) ∧
    elementAddr 0 0 ∉ pixAddrs (colMask 0xFFFF) := by decide

theorem witness_DirectWritesAreIdempotent : State.reset.frame.wf ∧
    exec (.pixW 7 0x81) State.reset = .next (after (.pixW 7 0x81) State.reset) ∧
    exec (.colW 7 0x81) State.reset = .next (after (.colW 7 0x81) State.reset) :=
  ⟨FrameStore.wf_cleared 0, rfl, rfl⟩

theorem witness_ControlWriteSetsAndClears : (blitting 0x00 0xFF 0x0F true).blit.collision = true ∧
    exec (.ctrlW 0x90) (blitting 0x00 0xFF 0x0F true) = .next (after (.ctrlW 0x90) (blitting 0x00 0xFF 0x0F true)) ∧
    (after (.ctrlW 0x90) (blitting 0x00 0xFF 0x0F true)).blit.collision = false := ⟨rfl, rfl, rfl⟩

/-- Every operation is selected by some control byte. -/
theorem witness_LogicTruthTables : ∀ op : Fin 16, (BitVec.ofNat 8 (16 * op.val + 15)).toNat / 16 = op.val := by decide

theorem witness_LogicOperations : (withPixel 0xAA).frame.readPix (pixMask 7) = 0xAA := by decide

/-- Two different bytes with the same S: XOR, k = 4, latch 0, then 0xF0 and 0xF5. -/
theorem witness_XorBlitTwiceRestores : controlOp (blitting 0x94 0x00 0x33 false).blit.ctrl = 0x9 ∧
    shiftAndFlip 0x94 0xF0 0xF5 = shiftAndFlip 0x94 (blitting 0x94 0x00 0x33 false).blit.latch 0xF0 := by decide

theorem witness_CollisionIsSticky :
    (after (.blitW 7 0x00) (blitting 0x00 0x00 0x01 true)).blit.collision = true ∧
    (blitting 0x00 0x00 0x01 false).blit.collision = false ∧
    (after (.blitW 7 0x01) (blitting 0x00 0x00 0x01 false)).blit.collision = true := by decide

theorem witness_EightTicksMakeACycle : (sequenced 0 true true).seq.phase = 0 ∧
    (sequenced 0 true true).seq.irqEnabled = true ∧ (sequenced 0 true true).seq.nmiEnabled = true ∧
    (sequenced 0 true true).blit.collision = false := by decide

theorem witness_OnlyTickRequestsAnInterrupt : exec .tick State.reset = .next (after .tick State.reset) ∧
    exec .collR State.reset = .next (after .collR State.reset) ∧ Instr.collR ≠ .tick := ⟨rfl, rfl, by decide⟩

theorem witness_VoiceTriggersUnlessPlaying : (sounding 64 .idle .none true).sound.deathPhase ≠ .playing ∧
    (sounding 64 .idle .playing true).sound.deathPhase = .playing := by decide

theorem witness_ConfirmActsOnlyOnThePattern :
    (sounding 70 .awaitDeathConfirm .none false).sound.pending = .awaitDeathConfirm ∧
    (sounding 69 .awaitLaserResetConfirm .none false).sound.pending = .awaitLaserResetConfirm ∧
    (sounding 69 .idle .none false).sound.pending = .idle ∧ (24 : Byte) ≠ 25 := by decide

theorem witness_NoiseAcceptsAChangedCode : Config.noiseBand 70 = true ∧ Config.noiseBand 69 = true ∧
    (70 : Byte) ≠ State.reset.sound.lastNoiseCode ∧ (0 : Byte) = State.reset.sound.lastNoiseCode :=
  ⟨rfl, rfl, by decide, by decide⟩

theorem witness_EachRegisterHasItsOwnWriters : exec .tick State.reset = .next (after .tick State.reset) ∧
    Instr.tick ≠ .reset := ⟨rfl, by decide⟩

/-- For each clause two states that agree in what it names and differ elsewhere, and an instruction it is about. -/
theorem witness_UnitsAreIndependentButForBlitAndReset :
    ((blitting 0x90 0 0 true).seq = State.reset.seq ∧ (blitting 0x90 0 0 true).sound = State.reset.sound ∧
      (blitting 0x90 0 0 true).blit ≠ State.reset.blit) ∧
    ((sequenced 3 true true).frame = State.reset.frame ∧ (sequenced 3 true true).seq ≠ State.reset.seq ∧
      isBlitWrite (.colW 0 0) = false ∧ Instr.colW 0 0 ≠ .reset) ∧
    ((withPixel 0x33).blit = State.reset.blit ∧ (withPixel 0x33).frame ≠ State.reset.frame ∧
      isBlitWrite (.ctrlW 0) = false) ∧
    ((sequenced 3 true true).frame = State.reset.frame ∧ (sequenced 3 true true).blit = State.reset.blit ∧
      isBlitWrite (.blitW 0 0) = true) ∧
    ((withPixel 0x33).draws = State.reset.draws ∧ (withPixel 0x33).frame ≠ State.reset.frame) ∧
    exec .tick (withPixel 0x33) = .next (after .tick (withPixel 0x33)) :=
  ⟨⟨rfl, rfl, by decide⟩, ⟨rfl, by decide, rfl, by decide⟩, ⟨rfl, by decide, rfl⟩, ⟨rfl, rfl, rfl⟩, ⟨rfl, by decide⟩, rfl⟩

theorem witness_BadConfigurationIsRefused :
    ((69 : Byte) ∈ [(69 : Byte), 70] ∧ (70 : Byte) ∈ [(69 : Byte), 70] ∧ [(1 : Word), 2, 3, 4, 5, 6, 7, 8].length = 8) ∧
    ¬ ((69 : Byte) ∈ [(70 : Byte)] ∧ (70 : Byte) ∈ [(70 : Byte)] ∧ [(1 : Word), 2, 3, 4, 5, 6, 7, 8].length = 8) := by
  decide

/-- The window whose port number (R102) is p. -/
def windowOfPort : Nat → Option Window
  | 0 => some .pix
  | 1 => some .blit
  | 2 => some .col
  | 3 => some .ctrl
  | 4 => some .coll
  | 5 => some .irqen
  | 6 => some .nmien
  | 7 => some .nmidis
  | 8 => some .snd
  | _ => none

/-- An address map that gives each window a page of 16384 addresses, in the order of the port numbers. -/
def pagedMap : AddrMap := fun addr =>
  (windowOfPort (addr / 16384)).bind fun w =>
    if addr % 16384 < windowSize w then some (w, addr % 16384) else none

theorem windowOfPort_windowPort (w : Window) : windowOfPort (windowPort w).toNat = some w := by cases w <;> rfl

/-- No window is larger than a page. -/
theorem windowSize_le (w : Window) : windowSize w ≤ 16384 := by cases w <;> decide

theorem witness_RoutedAccessesNameTheirTransaction : addrMapRoutes pagedMap := fun w =>
  ⟨16384 * (windowPort w).toNat, fun k hk => by
    have hpage := windowSize_le w
    have hdiv : (16384 * (windowPort w).toNat + k) / 16384 = (windowPort w).toNat := by omega
    have hmod : (16384 * (windowPort w).toNat + k) % 16384 = k := by omega
    simp only [pagedMap, hdiv, hmod, windowOfPort_windowPort, Option.bind_some, if_pos hk]⟩

end Sys2Proof.Tests
end

/-! # The outputs a transaction adds (R15, R16) -/

namespace Sys2Proof.Machine

/-- The entries a transaction appends to the ordered output: the byte of a read, the request of a TICK, the commands
of a sound trigger, and nothing for any other. -/
def addedOutput (i : Instr) (s : State) : List Output :=
  match i with
  | .pixR a | .blitR a => [.value (s.frame.readPix (pixMask a))]
  | .colR c => [.value (s.frame.readCol (colMask c))]
  | .collR => [.value (statusByte s.blit.collision s.seq.endOfScreen)]
  | .ctrlR | .irqenR | .sndR _ => [.value (Config.undefinedRead s.draws)]
  | .nmienR | .nmidisR => [.value Config.nmiPortReadValue]
  | .tick => [.request s.seq.tick.2]
  | .sndW4Voice v => (s.sound.voice v).2.map .command
  | .sndW5Confirm v => (s.sound.confirm v).2.map .command
  | .sndW6Noise v => (s.sound.noise v).2.map .command
  | .pixW _ _ | .blitW _ _ | .colW _ _ | .ctrlW _ | .collW _ | .irqenW _ | .nmienW _ | .nmidisW _ => []
  | .sndW0 _ | .sndW1 _ | .sndW2 _ | .sndW3Arm _ | .sndW4Pitch _ | .sndW7 _ => []
  | .audio _ _ | .refresh | .reset => []
  | .op0Copy _ _ _ _ _ | .op1Or _ _ _ _ _ | .op2OrNotD _ _ _ _ _ | .op3Set _ _ _ _ _ => []
  | .op4And _ _ _ _ _ | .op5Keep _ _ _ _ _ | .op6Xnor _ _ _ _ _ | .op7NotSOr _ _ _ _ _ => []
  | .op8AndNotD _ _ _ _ _ | .op9Xor _ _ _ _ _ | .opANotD _ _ _ _ _ | .opBNand _ _ _ _ _ => []
  | .opCClear _ _ _ _ _ | .opDNotSAnd _ _ _ _ _ | .opENor _ _ _ _ _ | .opFNotS _ _ _ _ _ => []

/-- The ordered output only grows, by exactly what the transaction adds. -/
theorem exec_out {i : Instr} {s t : State} (h : exec i s = .next t) : t.out = s.out ++ addedOutput i s := by
  cases i
  case pixR | blitR | colR | collR | ctrlR | irqenR | sndR | nmienR | nmidisR | tick => cases h; rfl
  case sndW4Voice | sndW5Confirm | sndW6Noise => cases h; rfl
  -- every other transaction is silent
  all_goals cases h; exact (List.append_nil _).symm

/-! ## No sound trigger sets a volume (R49) -/

theorem Sound.setVolume_notMem_voice (d : Sound) (v : Byte) (ch : Int) (level : Byte) :
    Command.setVolume ch level ∉ (d.voice v).2 := by
  unfold Sound.voice
  by_cases hplaying : d.deathPhase = .playing <;> simp [hplaying]

theorem Sound.setVolume_notMem_confirm (d : Sound) (v : Byte) (ch : Int) (level : Byte) :
    Command.setVolume ch level ∉ (d.confirm v).2 := by
  unfold Sound.confirm Sound.confirmAction
  by_cases hpattern : patternByte d.pending = some v
  · simp only [if_pos hpattern]
    cases d.pending <;> simp [Sound.confirmDeath, Sound.confirmLaserReset]
  · simp [hpattern]

theorem setVolume_notMem_noiseCommands (code : Byte) (phase : DeathPhase) (ch : Int) (level : Byte) :
    Command.setVolume ch level ∉ noiseCommands code phase := by
  obtain hnone | ⟨channel, sample, hstart⟩ := noiseCommands_cases code phase
  · simp [hnone]
  · simp [hstart]

theorem Sound.setVolume_notMem_noise (d : Sound) (v : Byte) (ch : Int) (level : Byte) :
    Command.setVolume ch level ∉ (d.noise v).2 := by
  unfold Sound.noise
  generalize (if Config.noiseBand v then v else d.lastNoiseCode) = code
  by_cases hsame : code = d.lastNoiseCode
  · simp [hsame]
  · simpa [hsame] using setVolume_notMem_noiseCommands code d.deathPhase ch level

/-! ## What the added outputs can be -/

/-- A transaction adds a request exactly when it is a TICK. -/
theorem request_mem_addedOutput {i : Instr} {s : State} {r : Request} :
    Output.request r ∈ addedOutput i s ↔ i = .tick ∧ r = s.seq.tick.2 := by
  cases i
  case tick => simp [addedOutput]
  -- every other transaction adds values, commands or nothing
  all_goals simp [addedOutput]

theorem setVolume_notMem_addedOutput (i : Instr) (s : State) (ch : Int) (level : Byte) :
    Output.command (.setVolume ch level) ∉ addedOutput i s := by
  cases i
  case sndW4Voice v => simpa [addedOutput] using s.sound.setVolume_notMem_voice v ch level
  case sndW5Confirm v => simpa [addedOutput] using s.sound.setVolume_notMem_confirm v ch level
  case sndW6Noise v => simpa [addedOutput] using s.sound.setVolume_notMem_noise v ch level
  -- every other transaction adds no command at all
  all_goals simp [addedOutput]

/-- Settles O40: `exec_out` names the added entries, and the lemmas above say what they can be. -/
theorem onlyTickRequestsAnInterrupt : Obligations.OnlyTickRequestsAnInterrupt := by
  intro i s t h
  refine ⟨addedOutput i s, exec_out h, ?_, ?_, setVolume_notMem_addedOutput i s⟩
  · rintro rfl
    exact ⟨s.seq.tick.2, rfl⟩
  · intro hne r hmem
    exact hne (request_mem_addedOutput.1 hmem).1

end Sys2Proof.Machine

/-! # What a transaction can do to each unit (R30, R31)

One inversion lemma per pair of coupled units: the FrameStore with the Blitter, the InterruptSequencer, the
SoundTriggerDecoder. -/

namespace Sys2Proof.Machine

/-- What a transaction can do to the FrameStore and the Blitter, which a blit write changes together. -/
inductive PictureEffect (i : Instr) (s t : State) : Prop where
  | kept (hframe : t.frame = s.frame) (hblit : t.blit = s.blit)
  | pixW (a : BusAddr) (v : Byte) (hi : i = .pixW a v) (ht : t = s.withFrame (s.frame.writePixelByte (pixMask a) v))
  | colW (c : BusAddr) (v : Byte) (hi : i = .colW c v) (ht : t = s.withFrame (s.frame.writeColorByte (colMask c) v))
  | refresh (hi : i = .refresh) (ht : t = s.withFrame s.frame.fullRefresh)
  | ctrlW (v : Byte) (hi : i = .ctrlW v) (ht : t = s.withBlit { ctrl := v, latch := 0x00, collision := false })
  | blitWrite (combine : Byte → Byte → Byte) (ctl : Byte) (a : PixAddr) (v : Byte) (hi : isBlitWrite i = true)
      (ht : t = s.blitWrite combine ctl a v)
  | reset (hi : i = .reset) (ht : t = s.machineReset)

/-- What a transaction can do to the InterruptSequencer. -/
inductive SequencerEffect (i : Instr) (s t : State) : Prop where
  | kept (hseq : t.seq = s.seq)
  | tick (hi : i = .tick) (hseq : t.seq = s.seq.tick.1)
  | irqenW (v : Byte) (hi : i = .irqenW v) (hseq : t.seq = { s.seq with irqEnabled := irqEnabledOf v })
  | nmiPort (enabled : Bool)
      (hi : (∃ v, i = .nmienW v) ∨ (∃ v, i = .nmidisW v) ∨ i = .nmienR ∨ i = .nmidisR)
      (hseq : t.seq = { s.seq with nmiEnabled := enabled })
  | reset (hi : i = .reset) (hseq : t.seq = State.reset.seq)

/-- What a transaction can do to the SoundTriggerDecoder. -/
inductive SoundEffect (i : Instr) (s t : State) : Prop where
  | kept (hsound : t.sound = s.sound)
  | arm (v : Byte) (hi : i = .sndW3Arm v) (hsound : t.sound = s.sound.arm v)
  | voice (v : Byte) (hi : i = .sndW4Voice v) (hsound : t.sound = (s.sound.voice v).1)
  | pitch (v : Byte) (hi : i = .sndW4Pitch v) (hsound : t.sound = s.sound.pitch v)
  | confirm (v : Byte) (hi : i = .sndW5Confirm v) (hsound : t.sound = (s.sound.confirm v).1)
  | noise (v : Byte) (hi : i = .sndW6Noise v) (hsound : t.sound = (s.sound.noise v).1)
  | audio (playV playE : Bool) (hi : i = .audio playV playE) (hsound : t.sound = s.sound.audioUpdate playV playE)
  | reset (hi : i = .reset) (hsound : t.sound = State.reset.sound)

variable {i : Instr} {s t : State}

theorem exec_pictureEffect (h : exec i s = .next t) : PictureEffect i s t := by
  cases i
  case pixW a v => cases h; exact .pixW a v rfl rfl
  case colW c v => cases h; exact .colW c v rfl rfl
  case refresh => cases h; exact .refresh rfl rfl
  case ctrlW v => cases h; exact .ctrlW v rfl rfl
  case reset => cases h; exact .reset rfl rfl
  case blitW | op0Copy | op1Or | op2OrNotD | op3Set | op4And | op5Keep | op6Xnor | op7NotSOr | op8AndNotD | op9Xor
      | opANotD | opBNand | opCClear | opDNotSAnd | opENor | opFNotS =>
    cases h; exact .blitWrite _ _ _ _ rfl rfl
  -- every other transaction writes neither unit
  all_goals cases h; exact .kept rfl rfl

theorem exec_sequencerEffect (h : exec i s = .next t) : SequencerEffect i s t := by
  cases i
  case tick => cases h; exact .tick rfl rfl
  case irqenW v => cases h; exact .irqenW v rfl rfl
  case nmienW v => cases h; exact .nmiPort true (.inl ⟨v, rfl⟩) rfl
  case nmidisW v => cases h; exact .nmiPort false (.inr (.inl ⟨v, rfl⟩)) rfl
  case nmienR => cases h; exact .nmiPort true (.inr (.inr (.inl rfl))) rfl
  case nmidisR => cases h; exact .nmiPort false (.inr (.inr (.inr rfl))) rfl
  case reset => cases h; exact .reset rfl rfl
  -- every other transaction leaves the sequencer
  all_goals cases h; exact .kept rfl

theorem exec_soundEffect (h : exec i s = .next t) : SoundEffect i s t := by
  cases i
  case sndW3Arm v => cases h; exact .arm v rfl rfl
  case sndW4Voice v => cases h; exact .voice v rfl rfl
  case sndW4Pitch v => cases h; exact .pitch v rfl rfl
  case sndW5Confirm v => cases h; exact .confirm v rfl rfl
  case sndW6Noise v => cases h; exact .noise v rfl rfl
  case audio playV playE => cases h; exact .audio playV playE rfl rfl
  case reset => cases h; exact .reset rfl rfl
  -- every other transaction leaves the sound decoder
  all_goals cases h; exact .kept rfl

/-- No transaction takes or issues an access. -/
theorem exec_host (h : exec i s = .next t) : t.host = s.host := by
  cases i
  all_goals cases h; rfl

/-! ## The canonical form of the memories (R33, R34, R35) -/

theorem exec_keeps_frameWf (hwf : s.frame.wf) (h : exec i s = .next t) : t.frame.wf := by
  cases exec_pictureEffect h with
  | kept hframe _ => rw [hframe]; exact hwf
  | pixW a v _ ht => rw [ht]; exact FrameStore.wf_writePixelByte hwf (pixMask a) v
  | colW c v _ ht => rw [ht]; exact FrameStore.wf_writeColorByte hwf (colMask c) v
  | refresh _ ht => rw [ht]; exact FrameStore.wf_fullRefresh hwf
  | ctrlW v _ ht => rw [ht]; exact hwf
  | blitWrite combine ctl a v _ ht => rw [ht]; exact FrameStore.wf_writePixelByte hwf a _
  | reset _ ht => rw [ht]; exact FrameStore.wf_cleared s.draws

/-- Settles O11: a step idles or runs one transaction, and every transaction keeps the form. -/
theorem stepKeepsMemoryCanonical : Obligations.StepKeepsMemoryCanonical := by
  intro s t hwf hstep
  obtain ⟨-, rfl⟩ | ⟨x, rest, i, -, -, hexec⟩ := step_next hstep
  · exact hwf
  · exact exec_keeps_frameWf (s := { s with host := rest }) hwf hexec

/-! ## Bit 7 of the latch (R37) -/

theorem controlShiftAmount_le (ctl : Byte) : controlShiftAmount ctl ≤ 6 := by
  rw [controlShiftAmount, BitVec.toNat_and]
  exact Nat.and_le_right

/-- Shifted left by at least 2, bit 7 of the latch leaves the shifter's window of nine bits. -/
theorem latchBit7_outside_window (latch : Byte) {amount : Nat} (hamount : amount ≤ 6) :
    (((latch ^^^ 0x80).setWidth 16 <<< (8 - amount)) &&& 0x1FF#16) =
      ((latch.setWidth 16 <<< (8 - amount)) &&& 0x1FF#16) := by
  apply BitVec.eq_of_getLsbD_eq
  intro i hi
  by_cases hwindow : i < 9
  · have hbit7 : ∀ j < 7, (0x80#16).getLsbD j = false := by decide
    have hlow := hbit7 (i - (8 - amount)) (by omega)
    simp [hlow]
  · have hmask : (0x1FF#16).getLsbD i = false := by interval_cases i <;> rfl
    simp only [BitVec.getLsbD_and, hmask, Bool.and_false]

theorem shiftAndFlip_latchBit7 (ctl latch input : Byte) :
    shiftAndFlip ctl (latch ^^^ 0x80) input = shiftAndFlip ctl latch input := by
  have hwindow := latchBit7_outside_window latch (controlShiftAmount_le ctl)
  simp only [shiftAndFlip, BitVec.and_or_distrib_right, hwindow]

theorem State.blitWrite_latchBit7 (combine : Byte → Byte → Byte) (ctl : Byte) (a : PixAddr) (v : Byte) (s : State) :
    (s.withBlit { s.blit with latch := s.blit.latch ^^^ 0x80 }).blitWrite combine ctl a v =
      s.blitWrite combine ctl a v := by
  simp only [State.blitWrite, State.withBlit_blit, State.withBlit_frame, shiftAndFlip_latchBit7]
  rfl

/-- Settles O32: the raw latch reaches a blit write through `shiftAndFlip` alone, which does not see its bit 7. -/
theorem latchBit7IsNeverSeen : Obligations.LatchBit7IsNeverSeen := fun a v s =>
  congrArg Host.Outcome.next (s.blitWrite_latchBit7 (alu (controlOp s.blit.ctrl)) s.blit.ctrl (pixMask a) v)

/-! ## The collision flag (R38, R84, R160) -/

theorem exec_keeps_collision (h : exec i s = .next t) (hset : s.blit.collision = true)
    (hctrl : ∀ v, i ≠ .ctrlW v) (hreset : i ≠ .reset) : t.blit.collision = true := by
  cases exec_pictureEffect h with
  | kept _ hblit => rw [hblit, hset]
  | pixW _ _ _ ht | colW _ _ _ ht | refresh _ ht => rw [ht]; exact hset
  | ctrlW v hi _ => exact absurd hi (hctrl v)
  | blitWrite _ _ _ _ _ ht => simp [ht, collisionAfter_eq, hset]
  | reset hi _ => exact absurd hi hreset

theorem isBlitWrite_of_collision_set (h : exec i s = .next t) (hclear : s.blit.collision = false)
    (hset : t.blit.collision = true) : isBlitWrite i = true := by
  cases exec_pictureEffect h with
  | kept _ hblit => simp [hblit, hclear] at hset
  | pixW _ _ _ ht | colW _ _ _ ht | refresh _ ht | ctrlW _ _ ht => simp [ht, hclear] at hset
  | blitWrite _ _ _ _ hi _ => exact hi
  | reset _ ht => rw [ht] at hset; cases hset

theorem execBlitW_overlap {a : BusAddr} {v : Byte} (h : exec (.blitW a v) s = .next t)
    (hclear : s.blit.collision = false) (hset : t.blit.collision = true) :
    shiftAndFlip s.blit.ctrl s.blit.latch v &&& s.frame.readPix (pixMask a) ≠ 0 := by
  cases h
  simpa [collisionAfter_eq, hclear] using hset

/-- Settles O33: a transaction keeps, clears or tests the flag, as `exec_pictureEffect` lists. -/
theorem collisionIsSticky : Obligations.CollisionIsSticky := by
  intro i s t h
  refine ⟨exec_keeps_collision h, fun hclear hset => ⟨isBlitWrite_of_collision_set h hclear hset, ?_⟩⟩
  rintro a v rfl
  exact execBlitW_overlap h hclear hset

/-! ## The writers of each register (R31, R33 to R50) -/

theorem readPix_writers (h : exec i s = .next t) (hreset : i ≠ .reset) :
    (∀ a, t.frame.readPix a = s.frame.readPix a) ∨ (∃ a v, i = .pixW a v) ∨ isBlitWrite i = true := by
  cases exec_pictureEffect h with
  | pixW a v hi _ => exact .inr (.inl ⟨a, v, hi⟩)
  | blitWrite _ _ _ _ hi _ => exact .inr (.inr hi)
  | reset hi _ => exact absurd hi hreset
  | kept hframe _ => exact .inl fun a => by rw [hframe]
  | colW _ _ _ ht | refresh _ ht | ctrlW _ _ ht => exact .inl fun a => by simp [ht]

theorem readCol_writers (h : exec i s = .next t) (hreset : i ≠ .reset) :
    (∀ c, t.frame.readCol c = s.frame.readCol c) ∨ ∃ c v, i = .colW c v := by
  cases exec_pictureEffect h with
  | colW c v hi _ => exact .inr ⟨c, v, hi⟩
  | reset hi _ => exact absurd hi hreset
  | kept hframe _ => exact .inl fun c => by rw [hframe]
  | pixW _ _ _ ht | refresh _ ht | ctrlW _ _ ht | blitWrite _ _ _ _ _ ht => exact .inl fun c => by simp [ht]

theorem readFb_writers (h : exec i s = .next t) (hreset : i ≠ .reset) :
    (∀ y x, t.frame.readFb y x = s.frame.readFb y x) ∨ (∃ a v, i = .pixW a v) ∨ isBlitWrite i = true ∨
      (∃ c v, i = .colW c v) ∨ i = .refresh := by
  cases exec_pictureEffect h with
  | pixW a v hi _ => exact .inr (.inl ⟨a, v, hi⟩)
  | blitWrite _ _ _ _ hi _ => exact .inr (.inr (.inl hi))
  | colW c v hi _ => exact .inr (.inr (.inr (.inl ⟨c, v, hi⟩)))
  | refresh hi _ => exact .inr (.inr (.inr (.inr hi)))
  | reset hi _ => exact absurd hi hreset
  | kept hframe _ => exact .inl fun y x => by rw [hframe]
  | ctrlW _ _ ht => exact .inl fun y x => by rw [ht, State.withBlit_frame]

/-- The Blitter is left as it is but for CTRL.W, and a blit write leaves `ctrl`. -/
theorem blitter_writers (h : exec i s = .next t) (hreset : i ≠ .reset) :
    t.blit = s.blit ∨ (∃ v, i = .ctrlW v) ∨ (isBlitWrite i = true ∧ t.blit.ctrl = s.blit.ctrl) := by
  cases exec_pictureEffect h with
  | ctrlW v hi _ => exact .inr (.inl ⟨v, hi⟩)
  | blitWrite _ _ _ _ hi ht => exact .inr (.inr ⟨hi, by rw [ht, State.blitWrite_ctrl]⟩)
  | reset hi _ => exact absurd hi hreset
  | kept _ hblit => exact .inl hblit
  | pixW _ _ _ ht | colW _ _ _ ht | refresh _ ht => exact .inl (by rw [ht, State.withFrame_blit])

theorem sequencer_writers (h : exec i s = .next t) (hreset : i ≠ .reset) :
    ((t.seq.phase = s.seq.phase ∧ t.seq.endOfScreen = s.seq.endOfScreen) ∨ i = .tick) ∧
    (t.seq.irqEnabled = s.seq.irqEnabled ∨ ∃ v, i = .irqenW v) ∧
    (t.seq.nmiEnabled = s.seq.nmiEnabled ∨ (∃ v, i = .nmienW v) ∨ (∃ v, i = .nmidisW v) ∨ i = .nmienR ∨
      i = .nmidisR) := by
  cases exec_sequencerEffect h with
  | kept hseq => simp [hseq]
  | tick hi hseq =>
    obtain ⟨-, -, hirq, hnmi⟩ := s.seq.tick_fields
    exact ⟨.inr hi, .inl (by rw [hseq, hirq]), .inl (by rw [hseq, hnmi])⟩
  | irqenW v hi hseq => exact ⟨.inl (by simp [hseq]), .inr ⟨v, hi⟩, .inl (by rw [hseq])⟩
  | nmiPort enabled hi hseq => exact ⟨.inl (by simp [hseq]), .inl (by rw [hseq]), .inr hi⟩
  | reset hi _ => exact absurd hi hreset

theorem sound_writers (h : exec i s = .next t) (hreset : i ≠ .reset) :
    (t.sound.lastNoiseCode = s.sound.lastNoiseCode ∨ (∃ v, i = .sndW5Confirm v) ∨ ∃ v, i = .sndW6Noise v) ∧
    (t.sound.lastVoiceCode = s.sound.lastVoiceCode ∨ ∃ v, i = .sndW4Voice v) ∧
    (t.sound.pending = s.sound.pending ∨ (∃ v, i = .sndW3Arm v) ∨ ∃ v, i = .sndW5Confirm v) ∧
    (t.sound.deathPhase = s.sound.deathPhase ∨ (∃ v, i = .sndW5Confirm v) ∨ (∃ v, i = .sndW6Noise v) ∨
      ∃ pv pe, i = .audio pv pe) ∧
    (t.sound.voiceFrequencyHz = s.sound.voiceFrequencyHz ∨ ∃ v, i = .sndW4Pitch v) ∧
    t.sound.voiceVolume = s.sound.voiceVolume ∧
    (t.sound.voiceBusy = s.sound.voiceBusy ∨ (∃ v, i = .sndW4Voice v) ∨ ∃ pv pe, i = .audio pv pe) := by
  cases exec_soundEffect h with
  | kept hsound => simp [hsound]
  | arm v hi hsound => rw [Sound.arm_eq] at hsound; simp [hi, hsound]
  | voice v hi hsound => rw [Sound.voice_eq] at hsound; simp [hi, hsound]
  | pitch v hi hsound => simp [hi, hsound, Sound.pitch]
  | confirm v hi hsound => rw [Sound.confirm_eq] at hsound; simp [hi, hsound]
  | noise v hi hsound => rw [Sound.noise_eq] at hsound; simp [hi, hsound]
  | audio playV playE hi hsound => simp [hi, hsound, Sound.audioUpdate]
  | reset hi _ => exact absurd hi hreset

/-- Settles O49, unit by unit. -/
theorem eachRegisterHasItsOwnWriters : Obligations.EachRegisterHasItsOwnWriters := by
  intro i s t h hreset
  have hblitter := blitter_writers h hreset
  have hctrl : t.blit.ctrl = s.blit.ctrl ∨ ∃ v, i = .ctrlW v := by
    obtain hblit | hwritten | ⟨-, hkept⟩ := hblitter
    exacts [.inl (congrArg _ hblit), .inr hwritten, .inl hkept]
  obtain ⟨hphase, hirq, hnmi⟩ := sequencer_writers h hreset
  exact ⟨exec_host h, readPix_writers h hreset, readCol_writers h hreset, readFb_writers h hreset, hctrl,
    hblitter.imp (congrArg Blitter.latch) (.imp_right And.left),
    hblitter.imp (congrArg Blitter.collision) (.imp_right And.left),
    hphase, hirq, hnmi, sound_writers h hreset⟩

/-! ## The state after reset -/

/-- Settles O9: each clause is a field of `State.reset`, read. -/
theorem resetStateHoldsTheResetValues : Obligations.ResetStateHoldsTheResetValues :=
  ⟨fun _ => rfl, ⟨0, fun _ => rfl⟩, fun _ _ => rfl, rfl, rfl, rfl, rfl, rfl, rfl, rfl, rfl, rfl⟩

theorem reset_endOfScreenMatches : State.reset.seq.endOfScreenMatches := by
  unfold Sequencer.endOfScreenMatches
  decide

/-- Settles O10: a cleared store is canonical and composed, and the phase after reset is neither 4 nor 7. -/
theorem resetMeetsTheInvariant : Obligations.ResetMeetsTheInvariant :=
  ⟨FrameStore.wf_cleared 0, FrameStore.composed_cleared 0, reset_endOfScreenMatches⟩

end Sys2Proof.Machine

/-! # The bus and the memory windows (spec/20_memory.md)

The step as the block's side of the bus, the two planes' addresses, writes repeated and read back, and the windows an
address map routes. -/

namespace Sys2Proof.Machine

/-! ## The step takes the oldest access (R75, R81) -/

variable {s : State} {x : Access} {rest : List Access}

theorem step_runs {i : Instr} (hhost : s.host = x :: rest) (hdecode : decodeAccess x = .ok i) :
    step s = exec i { s with host := rest } := by
  simp only [step, hhost, hdecode]

theorem step_idle (hhost : s.host = []) : step s = .next s := by
  simp only [step, hhost]

theorem step_refuses {e : DecodeError} (hhost : s.host = x :: rest) (hdecode : decodeAccess x = .error e) :
    step s = .refused (refusalOf e) := by
  simp only [step, hhost, hdecode]

/-- Settles O1: the three branches of `step`, and the two errors a word can decode to. -/
theorem stepRunsTheOldestAccess : Obligations.StepRunsTheOldestAccess := by
  refine ⟨fun _ _ _ _ => step_runs, fun _ => step_idle, fun s x rest e hhost hdecode => ?_⟩
  refine ⟨refusalOf e, step_refuses hhost hdecode, ?_⟩
  cases e with
  | noSuchPort => exact .inl rfl
  | readOfHostStep => exact .inr rfl

/-! ## Plane addresses are taken modulo the plane's size (R71) -/

@[simp] theorem pixMask_and (a : BusAddr) : pixMask (a &&& 0x3FFF) = pixMask a := by
  apply BitVec.eq_of_toNat_eq
  rw [pixMask_toNat, pixMask_toNat, BitVec.toNat_and, show (0x3FFF : BusAddr).toNat = 2 ^ 14 - 1 from rfl,
    Nat.and_two_pow_sub_one_eq_mod, Nat.mod_mod]

@[simp] theorem colMask_and (c : BusAddr) : colMask (c &&& 0x0FFF) = colMask c := by
  apply BitVec.eq_of_toNat_eq
  rw [colMask_toNat, colMask_toNat, BitVec.toNat_and, show (0x0FFF : BusAddr).toNat = 2 ^ 12 - 1 from rfl,
    Nat.and_two_pow_sub_one_eq_mod, Nat.mod_mod]

/-- Settles O14: the six meanings take the address through `pixMask` or `colMask` alone. -/
theorem planeAddressesAreMasked : Obligations.PlaneAddressesAreMasked := by
  intro a v s
  simp only [exec_pixW, exec_pixR, exec_blitW, exec_blitR, exec_colW, exec_colR, execPixW, execPixR, execBlitW,
    execBlitR, execColW, execColR, pixMask_and, colMask_and, and_self]

/-! ## Direct writes are idempotent (R77) -/

theorem FrameStore.writePixelByte_twice {f : FrameStore} (hf : f.wf) (a : PixAddr) (v : Byte) :
    (f.writePixelByte a v).writePixelByte a v = f.writePixelByte a v := by
  have hwritten := FrameStore.wf_writePixelByte hf a v
  refine FrameStore.eq_of_reads (FrameStore.wf_writePixelByte hwritten a v) hwritten rfl ?_ (fun _ => rfl) ?_
  · intro b
    by_cases hb : b = a <;> simp [FrameStore.readPix_writePixelByte, hb]
  · intro k _
    by_cases hk : k / 8 = a.toNat <;> simp [FrameStore.fb_writePixelByte, hk]

theorem FrameStore.writeColorByte_twice {f : FrameStore} (hf : f.wf) (c : ColAddr) (v : Byte) :
    (f.writeColorByte c v).writeColorByte c v = f.writeColorByte c v := by
  have hwritten := FrameStore.wf_writeColorByte hf c v
  refine FrameStore.eq_of_reads (FrameStore.wf_writeColorByte hwritten c v) hwritten rfl (fun _ => rfl) ?_ ?_
  · intro d
    by_cases hd : d = c <;> simp [FrameStore.readCol_writeColorByte, hd]
  · intro k hk
    by_cases hc : colorAddrOf (BitVec.ofNat 14 (k / 8)) = c <;> simp [FrameStore.fb_writeColorByte, hk, hc]

/-- Settles O22: the second write finds the byte and the elements the first one left. -/
theorem directWritesAreIdempotent : Obligations.DirectWritesAreIdempotent := by
  intro a v s t hwf
  constructor
  · rintro ⟨⟩
    exact congrArg (Host.Outcome.next ∘ s.withFrame) (FrameStore.writePixelByte_twice hwf (pixMask a) v)
  · rintro ⟨⟩
    exact congrArg (Host.Outcome.next ∘ s.withFrame) (FrameStore.writeColorByte_twice hwf (colMask a) v)

/-! ## The two windows of the PixelPlane (R79, R285) -/

theorem execAll_cons {i : Instr} {t : State} (is : List Instr) (h : exec i s = .next t) :
    execAll (i :: is) s = execAll is t := by
  simp only [execAll, h]

@[simp] theorem FrameStore.readPix_writePixelByte_same (f : FrameStore) (a : PixAddr) (v : Byte) :
    (f.writePixelByte a v).readPix a = v := by
  simp [FrameStore.readPix_writePixelByte]

/-- A transaction that leaves byte b at a pixel address and emits nothing, then the read of each window. -/
theorem execAll_readBack {i : Instr} {a : BusAddr} {t : State} {b : Byte} (h : exec i s = .next t)
    (hbyte : t.frame.readPix (pixMask a) = b) (hout : t.out = s.out) :
    ∃ u, execAll [i, .blitR a, .pixR a] s = .next u ∧ u.out = s.out ++ [.value b, .value b] := by
  refine ⟨(t.returnValue b).returnValue b, ?_, by simp [hout]⟩
  rw [execAll_cons _ h, execAll_cons (t := t.returnValue b), execAll_cons (t := (t.returnValue b).returnValue b)]
  · rfl
  · simp [execPixR, hbyte]
  · simp [execBlitR, hbyte]

theorem pixW_then_reads (a : BusAddr) (v : Byte) (s : State) :
    ∃ t, execAll [.pixW a v, .blitR a, .pixR a] s = .next t ∧ t.out = s.out ++ [.value v, .value v] :=
  execAll_readBack (exec_pixW a v s) (FrameStore.readPix_writePixelByte_same _ _ v) rfl

theorem blitW_then_reads (a : BusAddr) (v : Byte) (s : State) :
    ∃ t b, execAll [.blitW a v, .blitR a, .pixR a] s = .next t ∧ t.out = s.out ++ [.value b, .value b] ∧
      b = alu (controlOp s.blit.ctrl) (shiftAndFlip s.blit.ctrl s.blit.latch v) (s.frame.readPix (pixMask a)) := by
  obtain ⟨t, hrun, hout⟩ := execAll_readBack (exec_blitW a v s) (FrameStore.readPix_writePixelByte_same _ _ _) rfl
  exact ⟨t, _, hrun, hout, rfl⟩

/-- The blit finds the byte the direct write left, and the control byte and the latch from before it. -/
theorem pixW_then_blitW (a : BusAddr) (d v : Byte) (s : State) :
    ∃ t, execAll [.pixW a d, .blitW a v] s = .next t ∧
      t.frame.readPix (pixMask a) = alu (controlOp s.blit.ctrl) (shiftAndFlip s.blit.ctrl s.blit.latch v) d ∧
      t.blit.collision = (s.blit.collision || (shiftAndFlip s.blit.ctrl s.blit.latch v &&& d) != 0) := by
  refine ⟨_, (execAll_cons _ (exec_pixW a d s)).trans (execAll_cons _ (exec_blitW a v _)), ?_, ?_⟩
  · simp
  · simp [collisionAfter_eq]

/-- Settles O21: both reads are of the one PixelPlane, and so is the byte a blit combines with. -/
theorem bothWindowsReachTheSameBytes : Obligations.BothWindowsReachTheSameBytes :=
  fun a d v s => ⟨pixW_then_reads a v s, blitW_then_reads a v s, pixW_then_blitW a d v s⟩

/-! ## The windows of an address map (R78) -/

/-- The write transaction of offset k of a window (R78, R102, R112). -/
def windowWrite : Window → Nat → Byte → Instr
  | .pix, k, v => .pixW (BitVec.ofNat 16 k) v
  | .blit, k, v => .blitW (BitVec.ofNat 16 k) v
  | .col, k, v => .colW (BitVec.ofNat 16 k) v
  | .ctrl, _, v => .ctrlW v
  | .coll, _, v => .collW v
  | .irqen, _, v => .irqenW v
  | .nmien, _, v => .nmienW v
  | .nmidis, _, v => .nmidisW v
  | .snd, k, v => decodeSoundWrite (BitVec.ofNat 3 k) v

/-- The read transaction of offset k of a window (R78, R102). -/
def windowRead : Window → Nat → Instr
  | .pix, k => .pixR (BitVec.ofNat 16 k)
  | .blit, k => .blitR (BitVec.ofNat 16 k)
  | .col, k => .colR (BitVec.ofNat 16 k)
  | .ctrl, _ => .ctrlR
  | .coll, _ => .collR
  | .irqen, _ => .irqenR
  | .nmien, _ => .nmienR
  | .nmidis, _ => .nmidisR
  | .snd, k => .sndR (BitVec.ofNat 3 k)

/-- The sound offset is the low three bits of the address field (R102, R111). -/
theorem wordOffset_txnWord_ofNat (dir : Bool) (p : BitVec 7) (k : Nat) (v : Byte) :
    wordOffset (txnWord dir p (BitVec.ofNat 16 k) v) = BitVec.ofNat 3 k := by
  have hlow : ∀ w : Word, wordOffset w = (wordAddr w).setWidth 3 := fun w => by
    apply BitVec.eq_of_getLsbD_eq
    intro i hi
    simp [wordOffset, wordAddr, hi, show i < 16 by omega]
  rw [hlow, wordAddr_txnWord, BitVec.setWidth_ofNat_of_le (by decide)]

theorem decodeAccess_windowWrite (w : Window) (k : Nat) (v : Byte) :
    decodeAccess ⟨txnWord false (windowPort w) (BitVec.ofNat 16 k) v, false, false⟩ = .ok (windowWrite w k v) := by
  rw [decodeAccess, wordIsRead_txnWord, if_neg Bool.false_ne_true, decodeWrite, wordPort_txnWord]
  cases w <;> simp [windowPort, windowWrite, wordOffset_txnWord_ofNat]

theorem decodeAccess_windowRead (w : Window) (k : Nat) :
    decodeAccess ⟨txnWord true (windowPort w) (BitVec.ofNat 16 k) 0, false, false⟩ = .ok (windowRead w k) := by
  rw [decodeAccess, wordIsRead_txnWord, if_pos rfl, decodeRead, wordPort_txnWord]
  cases w <;> simp [windowPort, windowRead, wordOffset_txnWord_ofNat]

theorem busWrite_routed {m : AddrMap} {addr : Nat} {w : Window} {k : Nat} (h : m addr = some (w, k)) (v : Byte) :
    ∃ x, busWrite m addr v = some x ∧ decodeAccess x = .ok (windowWrite w k v) :=
  ⟨_, by rw [busWrite, h, Option.map_some], decodeAccess_windowWrite w k v⟩

theorem busRead_routed {m : AddrMap} {addr : Nat} {w : Window} {k : Nat} (h : m addr = some (w, k)) :
    ∃ x, busRead m addr = some x ∧ decodeAccess x = .ok (windowRead w k) :=
  ⟨_, by rw [busRead, h, Option.map_some], decodeAccess_windowRead w k⟩

/-- Every offset of a routed window names the window's transactions at that offset. -/
theorem window_routed {m : AddrMap} (hroutes : addrMapRoutes m) (w : Window) :
    ∃ base, ∀ k, k < windowSize w → ∀ v,
      (∃ x, busWrite m (base + k) v = some x ∧ decodeAccess x = .ok (windowWrite w k v)) ∧
      ∃ x, busRead m (base + k) = some x ∧ decodeAccess x = .ok (windowRead w k) := by
  obtain ⟨base, hbase⟩ := hroutes w
  exact ⟨base, fun k hk v => ⟨busWrite_routed (hbase k hk) v, busRead_routed (hbase k hk)⟩⟩

/-- A window of one address is a port. -/
theorem port_routed {m : AddrMap} (hroutes : addrMapRoutes m) (w : Window) (hsize : windowSize w = 1) :
    ∃ port, ∀ v,
      (∃ x, busWrite m port v = some x ∧ decodeAccess x = .ok (windowWrite w 0 v)) ∧
      ∃ x, busRead m port = some x ∧ decodeAccess x = .ok (windowRead w 0) := by
  obtain ⟨base, hbase⟩ := window_routed hroutes w
  exact ⟨base, hbase 0 (by omega)⟩

/-- Settles O52, window by window. -/
theorem routedAccessesNameTheirTransaction : Obligations.RoutedAccessesNameTheirTransaction := fun _ hroutes =>
  ⟨window_routed hroutes .pix, window_routed hroutes .blit, window_routed hroutes .col,
    port_routed hroutes .ctrl rfl, port_routed hroutes .coll rfl, port_routed hroutes .irqen rfl,
    port_routed hroutes .nmien rfl, port_routed hroutes .nmidis rfl, window_routed hroutes .snd⟩

end Sys2Proof.Machine

/-! # The words of the transactions (spec/30_encoding.md)

What each form of word decodes to, the round trip, which words decode at all, and the logic operation a control byte
selects. -/

namespace Sys2Proof.Machine

/-! ## What the encoder's words decode to (R102, R103, R112) -/

theorem decodeAccess_write (p : BitVec 7) (a : BusAddr) (v : Byte) (playV playE : Bool) :
    decodeAccess ⟨txnWord false p a v, playV, playE⟩ = decodeWrite ⟨txnWord false p a v, playV, playE⟩ := by
  simp [decodeAccess]

theorem decode_encodeWrite (p : BitVec 7) (a : BusAddr) (v : Byte) :
    decode (encodeWrite p a v) = decodeWrite ⟨txnWord false p a v, false, false⟩ :=
  decodeAccess_write p a v false false

theorem decode_encodeRead (p : BitVec 7) (a : BusAddr) :
    decode (encodeRead p a) = decodeRead ⟨txnWord true p a 0, false, false⟩ := by
  simp [decode, encodeRead, decodeAccess]

theorem decode_encodeSound (o : BitVec 3) (v : Byte) : decode (encodeSound o v) = .ok (decodeSoundWrite o v) := by
  simp [encodeSound, decode_encodeWrite, decodeWrite]

theorem decode_encodeLogic (op : BitVec 4) (flip : Bool) (shift : BitVec 2) (drop : Bool) (a : BusAddr) (v : Byte) :
    decode (encodeLogic op flip shift drop a v) = .ok (decodeControl (controlByte op flip shift drop) a v) := by
  simp only [encodeLogic, decode, decodeControlWord, controlWord_control, controlWord_data, controlWord_addr]

theorem decodeSoundWrite_voice {v : Byte} (hbit : v.getLsbD 6 = false) : decodeSoundWrite 4 v = .sndW4Voice v :=
  if_neg (Bool.eq_false_iff.1 hbit)

theorem decodeSoundWrite_pitch {v : Byte} (hbit : v.getLsbD 6 = true) : decodeSoundWrite 4 v = .sndW4Pitch v :=
  if_pos hbit

/-- Settles O5, by the form of the instruction's word. -/
theorem decodeInvertsEncode : Obligations.DecodeInvertsEncode := by
  intro i hwf
  cases i
  case sndW0 | sndW1 | sndW2 | sndW3Arm | sndW5Confirm | sndW6Noise | sndW7 => exact decode_encodeSound _ _
  case sndW4Voice v =>
    have hbit : v.getLsbD 6 = false := by simpa [Instr.wellFormed] using hwf
    exact (decode_encodeSound 4 v).trans (congrArg Except.ok (decodeSoundWrite_voice hbit))
  case sndW4Pitch v => exact (decode_encodeSound 4 v).trans (congrArg Except.ok (decodeSoundWrite_pitch hwf))
  case op0Copy | op1Or | op2OrNotD | op3Set | op4And | op5Keep | op6Xnor | op7NotSOr | op8AndNotD | op9Xor | opANotD
      | opBNand | opCClear | opDNotSAnd | opENor | opFNotS =>
    refine (decode_encodeLogic _ _ _ _ _ _).trans ?_
    simp only [decodeControl, controlByte_op, controlByte_flip, controlByte_shift, controlByte_drop]
    rfl
  case pixR | blitR | colR | ctrlR | collR | irqenR | nmienR | nmidisR | sndR =>
    exact (decode_encodeRead _ _).trans (by simp [decodeRead])
  case audio playV playE => exact (decodeAccess_write 10 0 0 playV playE).trans (by simp [decodeWrite])
  case pixW | blitW | colW | ctrlW | collW | irqenW | nmienW | nmidisW | tick | refresh | reset =>
    exact (decode_encodeWrite _ _ _).trans (by simp [decodeWrite])

/-! ## Every decoded instruction is well formed (R112, R113) -/

theorem wellFormed_decodeSoundWrite (o : BitVec 3) (v : Byte) : (decodeSoundWrite o v).wellFormed = true := by
  unfold decodeSoundWrite
  split
  case h_5 =>
    split
    case isTrue hbit => exact hbit
    case isFalse hbit => simpa only [Instr.wellFormed, Bool.not_eq_true'] using Bool.eq_false_iff.2 hbit
  all_goals rfl

theorem wellFormed_of_decodeWrite {x : Access} {i : Instr} (h : decodeWrite x = .ok i) : i.wellFormed = true := by
  unfold decodeWrite at h
  split at h
  case h_9 => cases h; exact wellFormed_decodeSoundWrite _ _
  all_goals cases h <;> rfl

theorem wellFormed_of_decodeRead {x : Access} {i : Instr} (h : decodeRead x = .ok i) : i.wellFormed = true := by
  unfold decodeRead at h
  split at h <;> cases h <;> rfl

theorem isBlitWrite_decodeControl (ctl : Byte) (a : BusAddr) (v : Byte) :
    isBlitWrite (decodeControl ctl a v) = true := by
  simp only [decodeControl]
  split <;> rfl

theorem wellFormed_of_isBlitWrite {i : Instr} (h : isBlitWrite i = true) : i.wellFormed = true := by
  cases i
  case sndW4Voice | sndW4Pitch => exact (Bool.false_ne_true h).elim
  all_goals rfl

/-- Settles O6, by the format of the words and the direction of the access. -/
theorem decodedInstructionsAreWellFormed : Obligations.DecodedInstructionsAreWellFormed := by
  rintro ⟨format, x⟩ i h
  cases format with
  | ctrl => cases h; exact wellFormed_of_isBlitWrite (isBlitWrite_decodeControl _ _ _)
  | txn =>
    by_cases hread : wordIsRead x.word = true
    · exact wellFormed_of_decodeRead (x := x) (by simpa [decode, decodeAccess, hread] using h)
    · exact wellFormed_of_decodeWrite (x := x) (by simpa [decode, decodeAccess, hread] using h)

/-! ## Which words decode (R102) -/

theorem wordPort_eq (w : Word) : wordPort w = w.toNat / 2 ^ 24 % 128 := by
  simp [wordPort, Nat.shiftRight_eq_div_pow]

theorem wordIsRead_iff (w : Word) : wordIsRead w = true ↔ w.toNat / 2 ^ 31 = 1 := by
  have := w.isLt
  simp only [wordIsRead, BitVec.getLsbD, Nat.testBit_eq_decide_div_mod_eq, decide_eq_true_eq]
  omega

theorem decodeWrite_ok_iff (x : Access) : (∃ i, decodeWrite x = .ok i) ↔ wordPort x.word < 13 := by
  unfold decodeWrite
  split
  case h_14 =>
    -- the port is none of the listed ones
    simp only [imp_false] at *
    simp only [reduceCtorEq, exists_false, false_iff]
    omega
  all_goals simp [*]

theorem decodeRead_ok_iff (x : Access) : (∃ i, decodeRead x = .ok i) ↔ wordPort x.word < 9 := by
  unfold decodeRead
  split
  case h_14 =>
    -- the port is none of the listed ones
    simp only [imp_false] at *
    simp only [reduceCtorEq, exists_false, false_iff]
    omega
  all_goals simp [*]

/-- Settles O7: by the direction of the access, and by the op field of the control byte. -/
theorem decodeRefusesExactlyTheUnassigned : Obligations.DecodeRefusesExactlyTheUnassigned := by
  refine ⟨fun x => ?_, isBlitWrite_decodeControl⟩
  rw [← wordPort_eq, ← wordIsRead_iff]
  by_cases hread : wordIsRead x.word = true
  · simp only [decodeAccess, hread, if_true, decodeRead_ok_iff, true_implies]
    omega
  · simp [decodeAccess, hread, decodeWrite_ok_iff]

/-! ## The logic operation of a blit write (R105) -/

/-- The sub-operation a control byte selects is the blit write under that control byte. -/
theorem exec_decodeControl (ctl : Byte) (a : BusAddr) (v : Byte) (s : State) :
    exec (decodeControl ctl a v) s = .next (s.blitWrite (alu (controlOp ctl)) ctl (pixMask a) v) := by
  rw [← controlByte_fields ctl]
  obtain ⟨⟨op, hop⟩⟩ := ctl.extractLsb' 4 4
  simp only [decodeControl, controlByte_op, controlByte_flip, controlByte_shift, controlByte_drop,
    controlOp_controlByte]
  interval_cases op <;> rfl

/-- Settles O26: `BLIT.W` is that blit write for the byte in `ctrl`. -/
theorem controlByteSelectsTheOperation : Obligations.ControlByteSelectsTheOperation := fun a v s =>
  (exec_decodeControl s.blit.ctrl a v s).symm

/-! ## A word of the opcode table, issued as the next access -/

theorem decode_of_decodeTableWord {nbits w : Nat} {i : Instr} (h : decodeTableWord nbits w = some i) :
    decode (tableEncoded nbits w) = .ok i := by
  unfold decodeTableWord at h
  split at h
  case h_1 hdecode => cases h; exact hdecode
  case h_2 => cases h

theorem tableEncoded_control (w : Nat) : (tableEncoded 8 w).access.word.extractLsb' 0 8 = BitVec.ofNat 8 w := by
  apply BitVec.eq_of_toNat_eq
  simp [tableEncoded]

/-- Settles O2: a transaction word is issued as it is; for a control byte a BLIT.W is issued, which by O26 is the
sub-operation that byte selects. -/
theorem fetchedTableWordRuns : Obligations.FetchedTableWordRuns := by
  refine ⟨fun s w i h => step_issue s (decode_of_decodeTableWord h), fun s w i _ h => ?_⟩
  have hdecode := decode_of_decodeTableWord h
  rw [← tableEncoded_control w]
  cases hdecode
  exact (step_issue _ (decodeInvertsEncode (.blitW _ _) rfl)).trans (controlByteSelectsTheOperation _ _ _)

/-- Settles O4: each word is decoded. -/
theorem specWordsDecode : Obligations.SpecWordsDecode :=
  ⟨rfl, rfl, rfl, rfl, rfl, rfl, rfl, rfl, rfl, rfl, rfl, rfl, rfl, rfl, rfl, rfl, rfl, rfl, rfl⟩

end Sys2Proof.Machine

/-! # The FrameStore (spec/40_framestore.md)

The framebuffer invariant R145, the colour addressing, the compositor's pixel, and what each transaction on the planes
leaves. -/

namespace Sys2Proof.Machine

/-! ## The framebuffer invariant (R145) -/

/-- R145 element by element, in the rows and columns of R141. -/
theorem FrameStore.composed_iff_elements (f : FrameStore) :
    f.composed ↔ ∀ y x, y < 512 → x < 256 → f.readFb y x =
      compose (f.readPix (elementAddr y x)) (f.readCol (colorAddrOf (elementAddr y x))) (x % 8) := by
  constructor
  · intro h y x hy hx
    have hread := h (elementAddr y x) (x % 8) (Nat.mod_lt x (by decide))
    rw [elementAddr_toNat y x hy hx] at hread
    rw [← hread]
    congr 1 <;> omega
  · intro h a i hi
    have ha := a.isLt
    have hy : a.toNat / 32 < 512 := by omega
    have hx : 8 * (a.toNat % 32) + i < 256 := by omega
    have haddr : elementAddr (a.toNat / 32) (8 * (a.toNat % 32) + i) = a := by
      apply BitVec.eq_of_toNat_eq
      rw [elementAddr_toNat _ _ hy hx]
      omega
    have hcol : (8 * (a.toNat % 32) + i) % 8 = i := by omega
    rw [h _ _ hy hx, haddr, hcol]

theorem FrameStore.composed_writePixelByte {f : FrameStore} (hf : f.composed) (a : PixAddr) (v : Byte) :
    (f.writePixelByte a v).composed := by
  rw [FrameStore.composed_iff_elements] at hf ⊢
  intro y x hy hx
  rw [FrameStore.readFb_writePixelByte f a v hy hx, FrameStore.readPix_writePixelByte]
  by_cases ha : elementAddr y x = a
  · simp [ha]
  · simp [ha, hf y x hy hx]

theorem FrameStore.composed_writeColorByte {f : FrameStore} (hf : f.composed) (c : ColAddr) (v : Byte) :
    (f.writeColorByte c v).composed := by
  rw [FrameStore.composed_iff_elements] at hf ⊢
  intro y x hy hx
  rw [FrameStore.readFb_writeColorByte f c v hy hx, FrameStore.readCol_writeColorByte]
  by_cases hc : colorAddrOf (elementAddr y x) = c
  · simp [mem_pixAddrs, hc]
  · simp [mem_pixAddrs, hc, hf y x hy hx]

/-- A full refresh composes the store whatever its framebuffer held. -/
theorem FrameStore.composed_fullRefresh (f : FrameStore) : f.fullRefresh.composed :=
  f.fullRefresh.composed_iff_elements.2 fun _ _ => f.readFb_fullRefresh

theorem exec_keeps_composed {i : Instr} {s t : State} (hs : s.frame.composed) (h : exec i s = .next t) :
    t.frame.composed := by
  cases exec_pictureEffect h with
  | kept hframe _ => rw [hframe]; exact hs
  | pixW a v _ ht => rw [ht]; exact FrameStore.composed_writePixelByte hs (pixMask a) v
  | colW c v _ ht => rw [ht]; exact FrameStore.composed_writeColorByte hs (colMask c) v
  | refresh _ ht => rw [ht]; exact s.frame.composed_fullRefresh
  | ctrlW v _ ht => rw [ht]; exact hs
  | blitWrite combine ctl a v _ ht => rw [ht]; exact FrameStore.composed_writePixelByte hs a _
  | reset _ ht => rw [ht]; exact FrameStore.composed_cleared s.draws

/-- Settles O12: reset leaves a cleared store, a step idles or runs one transaction, and every transaction keeps the
store composed. -/
theorem framebufferIsTheCompositorsFunction : Obligations.FramebufferIsTheCompositorsFunction := by
  refine ⟨FrameStore.composed_cleared 0, fun s t hs hstep => ?_⟩
  obtain ⟨-, rfl⟩ | ⟨x, rest, i, -, -, hexec⟩ := step_next hstep
  · exact hs
  · exact exec_keeps_composed (s := { s with host := rest }) hs hexec

/-! ## Colour addressing (R142, R143) -/

/-- The source's formula of R142; no bit of it lies above the twelve of a colour address. -/
theorem colorAddrOf_toNat_formula (a : PixAddr) :
    (colorAddrOf a).toNat = ((a.toNat &&& 0xFF80) >>> 2) ||| (a.toNat &&& 0x1F) := by
  have ha := a.isLt
  have hwide : (a.setWidth 16).toNat = a.toNat := BitVec.toNat_setWidth_of_le (by decide)
  have hrow : (a.toNat &&& 0xFF80) >>> 2 < 2 ^ 12 := by
    have : a.toNat &&& 0xFF80 ≤ a.toNat := Nat.and_le_left
    rw [Nat.shiftRight_eq_div_pow]
    omega
  have hcol : a.toNat &&& 0x1F < 2 ^ 12 := Nat.and_lt_two_pow _ (by decide)
  simp only [colorAddrOf, BitVec.toNat_setWidth, BitVec.toNat_or, BitVec.toNat_ushiftRight, BitVec.toNat_and, hwide]
  exact Nat.mod_eq_of_lt (Nat.or_lt_two_pow hrow hcol)

/-- The source's formula of R143 for the j-th of the four; no bit of it lies above the fourteen of a pixel address. -/
theorem pixAddrAt_toNat_formula (c : ColAddr) (j : BitVec 16) (hj : j.toNat < 4) :
    (pixAddrAt c j).toNat = ((c.toNat &&& 0xFE0) <<< 2) ||| (j.toNat <<< 5) ||| (c.toNat &&& 0x1F) := by
  have hwide : (c.setWidth 16).toNat = c.toNat := BitVec.toNat_setWidth_of_le (by decide)
  have hrow : (c.toNat &&& 0xFE0) <<< 2 < 2 ^ 14 := by
    have : c.toNat &&& 0xFE0 < 2 ^ 12 := Nat.and_lt_two_pow _ (by decide)
    rw [Nat.shiftLeft_eq]
    omega
  have hline : j.toNat <<< 5 < 2 ^ 14 := by
    rw [Nat.shiftLeft_eq]
    omega
  have hcol : c.toNat &&& 0x1F < 2 ^ 14 := Nat.and_lt_two_pow _ (by decide)
  simp only [pixAddrAt, BitVec.toNat_setWidth, BitVec.toNat_or, BitVec.toNat_shiftLeft, BitVec.toNat_and, hwide,
    BitVec.toNat_ofNat]
  rw [Nat.mod_eq_of_lt (hrow.trans (by decide)), Nat.mod_eq_of_lt (hline.trans (by decide))]
  exact Nat.mod_eq_of_lt (Nat.or_lt_two_pow (Nat.or_lt_two_pow hrow hline) hcol)

/-- Settles O15: the formulas above, and from the laws the closed form and the inverse. -/
theorem colorAddressAndItsInverse : Obligations.ColorAddressAndItsInverse := by
  refine ⟨colorAddrOf_toNat_formula, fun a => ?_, mem_pixAddrs, fun c => ?_⟩
  · rw [colorAddrOf_toNat, Nat.div_div_eq_div_mul]
  · simp only [pixAddrs, List.map_cons, List.map_nil]
    rw [pixAddrAt_toNat_formula c 0 (by decide), pixAddrAt_toNat_formula c 1 (by decide),
      pixAddrAt_toNat_formula c 2 (by decide), pixAddrAt_toNat_formula c 3 (by decide)]
    rfl

/-! ## The compositor's pixel (R144) -/

theorem leftColor_toNat (cb : Byte) : (leftColor cb).toNat = cb.toNat / 16 := by
  have hfield : (leftColor cb).toNat = cb.toNat / 16 % 16 := by simp [leftColor, Nat.shiftRight_eq_div_pow]
  have hcb := cb.isLt
  omega

theorem rightColor_toNat (cb : Byte) : (rightColor cb).toNat = cb.toNat % 16 := by
  simp [rightColor]

/-- Settles O16, along the two tests of `compose`. -/
theorem composeSelectsTheNibble : Obligations.ComposeSelectsTheNibble := by
  intro p cb i _
  have hbit : p.getLsbD (7 - i) = false ↔ p.toNat / 2 ^ (7 - i) % 2 = 0 := by
    simp [BitVec.getLsbD, Nat.testBit_eq_decide_div_mod_eq]
  unfold compose
  simp only [hbit]
  split
  · rfl
  · split
    · exact leftColor_toNat cb
    · exact rightColor_toNat cb

/-! ## What the transactions on the planes leave (R140, R146 to R149, R182) -/

/-- A transaction whose effect on the FrameStore is a pixel byte written leaves the memories R140 describes. -/
theorem pixelWritten_of_frame {s t : State} {a : PixAddr} {v : Byte} (h : t.frame = s.frame.writePixelByte a v) :
    pixelWritten a v s t := by
  unfold pixelWritten
  rw [h]
  exact ⟨fun b => s.frame.readPix_writePixelByte a b v, fun _ => rfl,
    fun _ _ => s.frame.readFb_writePixelByte a v⟩

/-- Settles O17; the last clause needs the canonical form, in which equal reads make equal stores. -/
theorem pixWriteStoresAndComposites : Obligations.PixWriteStoresAndComposites := by
  intro a v s
  refine ⟨_, exec_pixW a v s, pixelWritten_of_frame rfl, rfl, rfl, rfl, ⟨rfl, rfl, rfl⟩, ?_⟩
  rintro ⟨hwf, hcomposed, -⟩ rfl
  exact congrArg s.withFrame (FrameStore.writePixelByte_same hwf hcomposed (pixMask a))

/-- Settles O18: the colour plane and the framebuffer after `writeColorByte`; nothing else is written. -/
theorem colWriteStoresAndComposites : Obligations.ColWriteStoresAndComposites := fun c v s =>
  ⟨_, exec_colW c v s, fun d => s.frame.readCol_writeColorByte (colMask c) d v, fun _ => rfl,
    fun _ _ => s.frame.readFb_writeColorByte (colMask c) v, rfl, rfl, rfl, rfl, rfl, rfl⟩

/-- Settles O19: a refresh reads the planes alone, which it leaves, so a second one rebuilds the same elements. -/
theorem refreshRebuildsTheFramebuffer : Obligations.RefreshRebuildsTheFramebuffer := by
  intro s
  refine ⟨_, exec_refresh s, fun _ _ => s.frame.readFb_fullRefresh, fun _ => rfl, fun _ => rfl, rfl, rfl, rfl,
    ⟨rfl, rfl, rfl⟩, ⟨_, exec_refresh _, fun y x hy hx => ?_⟩, ?_⟩
  · exact (s.frame.fullRefresh.readFb_fullRefresh hy hx).trans (s.frame.readFb_fullRefresh hy hx).symm
  · rintro ⟨hwf, hcomposed, -⟩
    exact congrArg s.withFrame (FrameStore.fullRefresh_same hwf hcomposed)

theorem returned_returnValue (s : State) (b : Byte) : returned b s (s.returnValue b) := ⟨rfl, rfl, rfl⟩

theorem sameUnits_returnValue (s : State) (b : Byte) : sameUnits s (s.returnValue b) := ⟨rfl, rfl, rfl, rfl⟩

/-- Settles O20: each of the three reads is `returnValue` of the byte. -/
theorem planeReadsReturnTheByte : Obligations.PlaneReadsReturnTheByte := fun a s =>
  ⟨⟨_, exec_pixR a s, returned_returnValue s _, sameUnits_returnValue s _⟩,
    ⟨_, exec_blitR a s, returned_returnValue s _, sameUnits_returnValue s _⟩,
    ⟨_, exec_colR a s, returned_returnValue s _, sameUnits_returnValue s _⟩⟩

end Sys2Proof.Machine

/-! # The Blitter (spec/41_blitter.md)

What a blit write leaves, the sixteen logic operations, the shifter's window, the control write, the status read and
the accesses without effect. -/

namespace Sys2Proof.Machine

/-! ## What a blit write leaves (R163, R165 to R180) -/

theorem blitted_blitWrite (combine : Byte → Byte → Byte) (ctl : Byte) (a : PixAddr) (v : Byte) (s : State) :
    blitted ctl a v (combine (shiftAndFlip ctl s.blit.latch v) (s.frame.readPix a)) s
      (s.blitWrite combine ctl a v) := by
  refine ⟨pixelWritten_of_frame rfl, ?_, rfl, rfl, rfl, rfl, rfl⟩
  rw [← collisionAfter_eq]
  rfl

/-- An instruction that is a blit write by `combine` leaves what R163 says, the byte being `combine`'s. -/
theorem exec_blitted (combine : Byte → Byte → Byte) {i : Instr} {ctl : Byte} {a : PixAddr} {v : Byte} {s : State}
    (h : exec i s = .next (s.blitWrite combine ctl a v)) : ∃ t, exec i s = .next t ∧
      blitted ctl a v (combine (shiftAndFlip ctl s.blit.latch v) (s.frame.readPix a)) s t :=
  ⟨_, h, blitted_blitWrite combine ctl a v s⟩

/-- Settles O25: `BLIT.W` is the blit write by the operation of `ctrl`. -/
theorem blitWriteCombines : Obligations.BlitWriteCombines := fun a v s =>
  exec_blitted (alu (controlOp s.blit.ctrl)) (exec_blitW a v s)

/-- Settles O29: each of the eight is the blit write by its own logic function. -/
theorem logicOperationsLowWriteTheirResult : Obligations.LogicOperationsLowWriteTheirResult := by
  rintro flip shift drop a v s _ rfl
  exact ⟨exec_blitted logicCopy (exec_op0Copy flip shift drop a v s),
    exec_blitted logicOr (exec_op1Or flip shift drop a v s),
    exec_blitted logicOrNotD (exec_op2OrNotD flip shift drop a v s),
    exec_blitted logicSet (exec_op3Set flip shift drop a v s),
    exec_blitted logicAnd (exec_op4And flip shift drop a v s),
    exec_blitted logicKeep (exec_op5Keep flip shift drop a v s),
    exec_blitted logicXnor (exec_op6Xnor flip shift drop a v s),
    exec_blitted logicNotSOr (exec_op7NotSOr flip shift drop a v s)⟩

/-- Settles O30: each of the eight is the blit write by its own logic function. -/
theorem logicOperationsHighWriteTheirResult : Obligations.LogicOperationsHighWriteTheirResult := by
  rintro flip shift drop a v s _ rfl
  exact ⟨exec_blitted logicAndNotD (exec_op8AndNotD flip shift drop a v s),
    exec_blitted logicXor (exec_op9Xor flip shift drop a v s),
    exec_blitted logicNotD (exec_opANotD flip shift drop a v s),
    exec_blitted logicNand (exec_opBNand flip shift drop a v s),
    exec_blitted logicClear (exec_opCClear flip shift drop a v s),
    exec_blitted logicNotSAnd (exec_opDNotSAnd flip shift drop a v s),
    exec_blitted logicNor (exec_opENor flip shift drop a v s),
    exec_blitted logicNotS (exec_opFNotS flip shift drop a v s)⟩

/-! ## Two XOR blits (R174) -/

/-- XOR with one S, written at an address twice, leaves every pixel byte. -/
theorem FrameStore.readPix_xor_twice (f : FrameStore) (a b : PixAddr) (src : Byte) :
    ((f.writePixelByte a (src ^^^ f.readPix a)).writePixelByte a (src ^^^ (src ^^^ f.readPix a))).readPix b =
      f.readPix b := by
  rw [← BitVec.xor_assoc, BitVec.xor_self, BitVec.zero_xor]
  by_cases hb : b = a <;> simp [FrameStore.readPix_writePixelByte, hb]

/-- Settles O31: the second blit finds D ^ S and, by the premise, brings the same S. -/
theorem xorBlitTwiceRestores : Obligations.XorBlitTwiceRestores := by
  intro a v w s hxor hsame
  refine ⟨_, (execAll_cons _ (exec_blitW a v s)).trans (execAll_cons _ (exec_blitW a w _)), fun b => ?_⟩
  have halu : ∀ src dst, alu 0x9 src dst = src ^^^ dst := fun _ _ => rfl
  simp only [State.blitWrite_frame, State.blitWrite_ctrl, State.blitWrite_latch, hxor, hsame, halu,
    FrameStore.readPix_writePixelByte_same]
  exact s.frame.readPix_xor_twice (pixMask a) b _

/-! ## The logic operations' truth tables (R164 to R180) -/

theorem controlOp_toNat (ctl : Byte) : (controlOp ctl).toNat = ctl.toNat / 16 := by
  have := ctl.isLt
  simp [controlOp, Nat.shiftRight_eq_div_pow]
  omega

/-- One row of R165 to R180: the operation `op` has result `r`, and the truth table gives each bit of `r`. -/
theorem alu_of_selected {ctl src dst r : Byte} {i : Nat} {bit : Bool} (op : BitVec 4) (hresult : alu op src dst = r)
    (hbit : r.getLsbD i = bit) (hop : ctl.toNat / 16 = op.toNat) :
    alu (controlOp ctl) src dst = r ∧ (alu (controlOp ctl) src dst).getLsbD i = bit := by
  have hselected : controlOp ctl = op := BitVec.eq_of_toNat_eq ((controlOp_toNat ctl).trans hop)
  rw [hselected, hresult]
  exact ⟨rfl, hbit⟩

theorem tableBit_self (bit s d : Bool) : tableBit bit bit bit bit s d = bit := by
  cases s <;> cases d <;> rfl

theorem byteFF_bit {i : Nat} (hi : i < 8) : (0xFF : Byte).getLsbD i = true :=
  BitVec.getLsbD_allOnes.trans (decide_eq_true hi)

/-- Settles O27: by the selector each clause is a row, and its bit is read off for the four values of (S, D). -/
theorem logicTruthTablesLow : Obligations.LogicTruthTablesLow := by
  intro ctl src dst i hi
  refine ⟨alu_of_selected 0x0 rfl ?_, alu_of_selected 0x1 rfl ?_, alu_of_selected 0x2 rfl ?_,
    alu_of_selected 0x3 rfl ((byteFF_bit hi).trans (tableBit_self ..).symm), alu_of_selected 0x4 rfl ?_,
    alu_of_selected 0x5 rfl ?_, alu_of_selected 0x6 rfl ?_, alu_of_selected 0x7 rfl ?_⟩
  all_goals
    simp only [BitVec.getLsbD_or, BitVec.getLsbD_and, BitVec.getLsbD_xor, BitVec.getLsbD_not, hi]
    cases src.getLsbD i <;> cases dst.getLsbD i <;> rfl

/-- Settles O28: by the selector each clause is a row, as in O27. -/
theorem logicTruthTablesHigh : Obligations.LogicTruthTablesHigh := by
  intro ctl src dst i hi
  refine ⟨alu_of_selected 0x8 rfl ?_, alu_of_selected 0x9 rfl ?_, alu_of_selected 0xA rfl ?_,
    alu_of_selected 0xB rfl ?_, alu_of_selected 0xC rfl (BitVec.getLsbD_zero.trans (tableBit_self ..).symm),
    alu_of_selected 0xD rfl ?_, alu_of_selected 0xE rfl ?_, alu_of_selected 0xF rfl ?_⟩
  all_goals
    simp only [BitVec.getLsbD_or, BitVec.getLsbD_and, BitVec.getLsbD_xor, BitVec.getLsbD_not, hi]
    cases src.getLsbD i <;> cases dst.getLsbD i <;> rfl

/-! ## The shifter's window (R161, R162) -/

theorem controlFlip_eq (ctl : Byte) : controlFlip ctl = ctl.getLsbD 3 := by
  rw [controlFlip, show (0x08 : Byte) = BitVec.twoPow 8 3 from rfl, BitVec.and_twoPow]
  cases ctl.getLsbD 3 <;> rfl

theorem controlDrop_le (ctl : Byte) : controlDrop ctl ≤ 1 := by
  rw [controlDrop, BitVec.toNat_and]
  exact Nat.and_le_right

/-- The two shift fields add up to k = ctrl[2:0]. -/
theorem controlShiftAmount_add_controlDrop (ctl : Byte) : controlShiftAmount ctl + controlDrop ctl = ctl.toNat % 8 := by
  have hamount := controlShiftAmount_le ctl
  have hdrop := controlDrop_le ctl
  have hdisjoint : ctl &&& 0x06 &&& (ctl &&& 0x01) = 0#8 := by
    calc ctl &&& 0x06 &&& (ctl &&& 0x01) = ctl &&& ctl &&& (0x06 &&& 0x01) := by ac_rfl
      _ = 0#8 := BitVec.and_zero
  have hsum : (ctl &&& 0x06) + (ctl &&& 0x01) = ctl &&& 0x07 := by
    rw [BitVec.add_eq_or_of_and_eq_zero _ _ hdisjoint, ← BitVec.and_or_distrib_left]
    rfl
  have hnat := congrArg BitVec.toNat hsum
  rw [BitVec.toNat_add, BitVec.toNat_and ctl 0x07, show (0x07 : Byte).toNat = 2 ^ 3 - 1 from rfl,
    Nat.and_two_pow_sub_one_eq_mod] at hnat
  simp only [controlShiftAmount, controlDrop] at *
  omega

/-- The shifter's byte, before the flip. -/
def shiftedByte (ctl latch input : Byte) : Byte :=
  ((((input.setWidth 16 >>> controlShiftAmount ctl) ||| (latch.setWidth 16 <<< (8 - controlShiftAmount ctl))) &&&
    0x1FF#16) >>> controlDrop ctl).setWidth 8

theorem shiftAndFlip_eq (ctl latch input : Byte) : shiftAndFlip ctl latch input =
    if controlFlip ctl then rev8 (shiftedByte ctl latch input) else shiftedByte ctl latch input := rfl

/-- Bit j of latch : input comes from the input below 8 and from the latch above. -/
theorem latchInput_testBit (latch input : Byte) (j : Nat) :
    (256 * latch.toNat + input.toNat).testBit j = if j < 8 then input.getLsbD j else latch.getLsbD (j - 8) :=
  Nat.testBit_two_pow_mul_add latch.toNat input.isLt j

theorem shiftedByte_bit (ctl latch input : Byte) {i : Nat} (hi : i < 8) :
    (shiftedByte ctl latch input).getLsbD i = (256 * latch.toNat + input.toNat).testBit (ctl.toNat % 8 + i) := by
  have hamount := controlShiftAmount_le ctl
  have hdrop := controlDrop_le ctl
  rw [← controlShiftAmount_add_controlDrop, latchInput_testBit, shiftedByte]
  generalize controlShiftAmount ctl = amount at *
  generalize controlDrop ctl = drop at *
  have hmask : ∀ j < 9, (0x1FF#16).getLsbD j = true := by decide
  have hinput : amount + (drop + i) = amount + drop + i := by omega
  have hlatch : drop + i < 8 - amount ↔ amount + drop + i < 8 := by omega
  have hlatchIndex : drop + i - (8 - amount) = amount + drop + i - 8 := by omega
  have hwide : amount + drop + i < 16 ∧ drop + i < 16 ∧ amount + drop + i - 8 < 16 := by omega
  simp only [BitVec.getLsbD_setWidth, BitVec.getLsbD_ushiftRight, BitVec.getLsbD_and, BitVec.getLsbD_or,
    BitVec.getLsbD_shiftLeft, hi, hmask (drop + i) (by omega), hinput, hlatch, hlatchIndex, hwide]
  by_cases hbelow : amount + drop + i < 8
  · simp [hbelow]
  · simp [hbelow, BitVec.getLsbD_of_ge input _ (not_lt.1 hbelow)]

/-- Settles O24: the window before the flip, and the flip reads it from the other end. -/
theorem shiftAndFlipIsAWindow : Obligations.ShiftAndFlipIsAWindow := by
  intro ctl latch input i hi
  rw [shiftAndFlip_eq, controlFlip_eq]
  by_cases hflip : ctl.getLsbD 3 = true
  · rw [if_pos hflip, if_pos hflip, rev8_bit _ _ hi, shiftedByte_bit ctl latch input (by omega)]
  · rw [if_neg hflip, if_neg hflip, shiftedByte_bit ctl latch input hi]

/-! ## The control write (R160) -/

/-- Settles O23: the write itself; every transaction but it and RESET keeps a set flag. -/
theorem controlWriteSetsAndClears : Obligations.ControlWriteSetsAndClears := by
  refine ⟨fun v s => ⟨_, exec_ctrlW v s, rfl, rfl, rfl, rfl, rfl, rfl, rfl⟩, fun i s t h hset hclear => ?_⟩
  by_contra hother
  obtain ⟨hctrl, hreset⟩ := not_or.1 hother
  have hkept := exec_keeps_collision h hset (not_exists.1 hctrl) hreset
  rw [hclear] at hkept
  exact Bool.false_ne_true hkept

/-! ## The status read (R43, R181) -/

@[simp] theorem statusByte_bit7 (collision endOfScreen : Bool) :
    (statusByte collision endOfScreen).getLsbD 7 = collision := by
  cases collision <;> cases endOfScreen <;> rfl

@[simp] theorem statusByte_bit0 (collision endOfScreen : Bool) :
    (statusByte collision endOfScreen).getLsbD 0 = endOfScreen := by
  cases collision <;> cases endOfScreen <;> rfl

theorem statusByte_middle_bits (collision endOfScreen : Bool) {i : Nat} (hlow : 1 ≤ i) (hhigh : i ≤ 6) :
    (statusByte collision endOfScreen).getLsbD i = false := by
  cases collision <;> cases endOfScreen <;> interval_cases i <;> rfl

theorem statusByte_cases (collision endOfScreen : Bool) :
    statusByte collision endOfScreen = 0x00 ∨ statusByte collision endOfScreen = 0x01 ∨
      statusByte collision endOfScreen = 0x80 ∨ statusByte collision endOfScreen = 0x81 := by
  cases collision <;> cases endOfScreen <;> decide

/-- Settles O34: the read returns `statusByte`, whose bits the lemmas above give. -/
theorem statusReadPacksTwoFlags : Obligations.StatusReadPacksTwoFlags := fun s =>
  ⟨_, _, exec_collR s, returned_returnValue s _, sameUnits_returnValue s _, statusByte_bit7 _ _, statusByte_bit0 _ _,
    fun _ => statusByte_middle_bits _ _, statusByte_cases _ _⟩

/-! ## Accesses the source does not define (R183, R207, R229, R231) -/

/-- An instruction that is an undefined read returns some byte and leaves the four units. -/
theorem exec_undefinedRead {i : Instr} {s : State} (h : exec i s = .next s.returnUndefined) :
    ∃ t b, exec i s = .next t ∧ t.out = s.out ++ [.value b] ∧ sameUnits s t :=
  ⟨_, _, h, State.returnUndefined_out s, rfl, rfl, rfl, rfl⟩

/-- Settles O35: three undefined reads and two writes without effect. -/
theorem undefinedAccessesChangeNothing : Obligations.UndefinedAccessesChangeNothing := fun v o s =>
  ⟨exec_undefinedRead (exec_ctrlR s), exec_undefinedRead (exec_irqenR s), exec_undefinedRead (exec_sndR o s),
    exec_collW v s, exec_sndW7 v s⟩

end Sys2Proof.Machine

/-! # The InterruptSequencer (spec/42_interrupt_sequencer.md)

The tick and the end-of-screen bit, the eight-tick cycle, the enable ports, and what the next state of each unit
depends on. -/

namespace Sys2Proof.Machine

/-! ## The end-of-screen bit (R200, R201) -/

@[simp] theorem endOfScreenAfter_iff (p : Nat) : endOfScreenAfter p = true ↔ p = 4 ∨ p = 7 := by
  simp [endOfScreenAfter]

theorem Sequencer.endOfScreenMatches_iff (q : Sequencer) :
    q.endOfScreenMatches ↔ (q.endOfScreen = true ↔ q.phase.toNat = 4 ∨ q.phase.toNat = 7) := by
  simp only [Sequencer.endOfScreenMatches, ← BitVec.toNat_inj]
  rfl

/-- The stored phase is the tick-phase but for 8, which is stored as 0 and is no end of screen. -/
theorem Sequencer.endOfScreenMatches_tick (q : Sequencer) : q.tick.1.endOfScreenMatches := by
  obtain ⟨hphase, hend, -, -⟩ := q.tick_fields
  have hlt := q.phase.isLt
  rw [Sequencer.endOfScreenMatches_iff, hphase, hend, endOfScreenAfter_iff]
  omega

theorem exec_keeps_endOfScreenMatches {i : Instr} {s t : State} (hs : s.seq.endOfScreenMatches)
    (h : exec i s = .next t) : t.seq.endOfScreenMatches := by
  cases exec_sequencerEffect h with
  | kept hseq => rw [hseq]; exact hs
  | tick _ hseq => rw [hseq]; exact s.seq.endOfScreenMatches_tick
  | irqenW _ _ hseq | nmiPort _ _ hseq => rw [hseq]; exact hs
  | reset _ hseq => rw [hseq]; exact reset_endOfScreenMatches

/-- Settles O13: a step idles or runs one transaction, and every transaction keeps the bit matched. -/
theorem stepKeepsEndOfScreenMatched : Obligations.StepKeepsEndOfScreenMatched := by
  intro s t hs hstep
  obtain ⟨-, rfl⟩ | ⟨x, rest, i, -, -, hexec⟩ := step_next hstep
  · exact hs
  · exact exec_keeps_endOfScreenMatches (s := { s with host := rest }) hs hexec

/-! ## One tick (R200) -/

/-- The candidate of a tick is maskable exactly from the stored phases 3 and 7. -/
theorem Sequencer.tick_request_of_phase (q : Sequencer) :
    q.tick.2 = if q.phase = 3 ∨ q.phase = 7 then q.maskable else q.nonMaskable := by
  have hphase : q.phase.toNat + 1 = 4 ∨ q.phase.toNat + 1 = 8 ↔ q.phase = 3 ∨ q.phase = 7 := by bv_omega
  simp only [q.tick_request, hphase]

/-- Settles O36: the fields and the request of `Sequencer.tick`. -/
theorem tickAdvancesAndRequests : Obligations.TickAdvancesAndRequests := by
  intro s
  obtain ⟨hphase, hend, hirq, hnmi⟩ := s.seq.tick_fields
  refine ⟨_, exec_tick s, hphase, ?_, hirq, hnmi, ?_, rfl, rfl, rfl, rfl, rfl⟩
  · rw [State.deliver_seq, State.withSeq_seq, hend, endOfScreenAfter_iff]
  · rw [State.deliver_out, s.seq.tick_request_of_phase]
    rfl

/-! ## The eight-tick cycle (R200, R201) -/

theorem execAll_ticks (n : Nat) (s : State) : ∃ t, execAll (List.replicate n .tick) s = .next t ∧
    t.seq.phase.toNat = (s.seq.phase.toNat + n) % 8 := by
  induction n generalizing s with
  | zero => exact ⟨s, rfl, (Nat.mod_eq_of_lt s.seq.phase.isLt).symm⟩
  | succ n ih =>
    obtain ⟨hticked, -⟩ := s.seq.tick_fields
    obtain ⟨t, hrun, hphase⟩ := ih ((s.withSeq s.seq.tick.1).deliver s.seq.tick.2)
    refine ⟨t, (execAll_cons _ (exec_tick s)).trans hrun, ?_⟩
    rw [hphase, State.deliver_seq, State.withSeq_seq, hticked]
    omega

/-- After p ticks from phase 0, with both latches set and no collision. -/
structure Cycling (p : Nat) (s : State) : Prop where
  phase : s.seq.phase.toNat = p % 8
  irq : s.seq.irqEnabled = true
  nmi : s.seq.nmiEnabled = true
  collision : s.blit.collision = false

/-- What the tick after p ticks of the cycle and the status read after it return. -/
def tickAndStatus (p : Nat) : List Output :=
  [.request (if p % 4 = 3 then .irq Config.irqVector else .nmi),
    .value (statusByte false (endOfScreenAfter (p % 8 + 1)))]

theorem Cycling.tick_request {p : Nat} {s : State} (h : Cycling p s) :
    s.seq.tick.2 = if p % 4 = 3 then .irq Config.irqVector else .nmi := by
  have hphase : p % 8 + 1 = 4 ∨ p % 8 + 1 = 8 ↔ p % 4 = 3 := by omega
  simp only [Sequencer.tick_request, Sequencer.maskable, Sequencer.nonMaskable, h.phase, h.irq, h.nmi, hphase, if_true]

theorem execAll_tick_status {p : Nat} {s : State} (h : Cycling p s) (is : List Instr) :
    ∃ t, execAll (.tick :: .collR :: is) s = execAll is t ∧ Cycling (p + 1) t ∧ t.out = s.out ++ tickAndStatus p := by
  obtain ⟨hphase, hend, hirq, hnmi⟩ := s.seq.tick_fields
  refine ⟨_, (execAll_cons _ (exec_tick s)).trans (execAll_cons _ (exec_collR _)), ⟨?_, ?_, ?_, h.collision⟩, ?_⟩
  · have := h.phase
    simp only [State.returnValue_seq, State.deliver_seq, State.withSeq_seq, hphase]
    omega
  · exact hirq.trans h.irq
  · exact hnmi.trans h.nmi
  · simp [tickAndStatus, h.tick_request, hend, h.phase, h.collision]

theorem execAll_cycle (n : Nat) {p : Nat} {s : State} (h : Cycling p s) :
    ∃ t, execAll (List.replicate n [.tick, .collR]).flatten s = .next t ∧ Cycling (p + n) t ∧
      t.out = s.out ++ (List.range' p n).flatMap tickAndStatus := by
  induction n generalizing p s with
  | zero => exact ⟨s, rfl, h, (List.append_nil _).symm⟩
  | succ n ih =>
    obtain ⟨u, hfirst, hu, hout⟩ := execAll_tick_status h (List.replicate n [.tick, .collR]).flatten
    obtain ⟨t, hrest, ht, hout'⟩ := ih hu
    refine ⟨t, hfirst.trans hrest, by rwa [Nat.add_right_comm] at ht, ?_⟩
    rw [hout', hout, List.append_assoc, List.range'_succ, List.flatMap_cons]

/-- Settles O37: the runs of eight of `execAll_cycle` and `execAll_ticks`. -/
theorem eightTicksMakeACycle : Obligations.EightTicksMakeACycle := by
  refine ⟨fun s hphase hirq hnmi hcollision => ?_, fun s => ?_⟩
  · have hs : Cycling 0 s := ⟨by rw [hphase]; rfl, hirq, hnmi, hcollision⟩
    obtain ⟨t, hrun, ht, hout⟩ := execAll_cycle 8 hs
    exact ⟨t, hrun, BitVec.eq_of_toNat_eq ht.phase, hout⟩
  · obtain ⟨t, hrun, hphase⟩ := execAll_ticks 8 s
    refine ⟨t, hrun, BitVec.eq_of_toNat_eq ?_⟩
    rw [hphase, Nat.add_mod_right, Nat.mod_eq_of_lt s.seq.phase.isLt]

/-! ## The enable ports (R202 to R206) -/

theorem irqEnabledOf_iff (v : Byte) : irqEnabledOf v = true ↔ v.toNat ≠ 0 := by
  rw [irqEnabledOf, bne_iff_ne, ne_eq, ← BitVec.toNat_inj]
  rfl

/-- Settles O38: each enable write replaces the sequencer by itself with one latch set. -/
theorem enableWritesSetTheirLatch : Obligations.EnableWritesSetTheirLatch := fun v s =>
  ⟨⟨_, exec_irqenW v s, irqEnabledOf_iff v, rfl, rfl, rfl, rfl, rfl, rfl, rfl⟩,
    ⟨_, exec_nmienW v s, rfl, rfl, rfl, rfl, rfl, rfl, rfl⟩,
    ⟨_, exec_nmidisW v s, rfl, rfl, rfl, rfl, rfl, rfl, rfl⟩⟩

/-- A read of an NMI port, which leaves the latch at the port's own value and returns the fixed byte. -/
def State.nmiPortRead (s : State) (enabled : Bool) : State :=
  (s.withSeq { s.seq with nmiEnabled := enabled }).returnValue Config.nmiPortReadValue

theorem exec_nmienR_eq (s : State) : exec .nmienR s = .next (s.nmiPortRead true) := rfl

theorem exec_nmidisR_eq (s : State) : exec .nmidisR s = .next (s.nmiPortRead false) := rfl

theorem returned_nmiPortRead (s : State) (enabled : Bool) :
    returned Config.nmiPortReadValue s (s.nmiPortRead enabled) := ⟨rfl, rfl, rfl⟩

theorem sameUnits_nmiPortRead_twice (s : State) (enabled : Bool) :
    sameUnits (s.nmiPortRead enabled) ((s.nmiPortRead enabled).nmiPortRead enabled) := ⟨rfl, rfl, rfl, rfl⟩

/-- Settles O39: either read is `nmiPortRead`, and the second one finds the latch as the first one left it. -/
theorem nmiPortReadsSetAndClear : Obligations.NmiPortReadsSetAndClear := fun s =>
  ⟨⟨_, exec_nmienR_eq s, returned_nmiPortRead s true, rfl, rfl, rfl, rfl,
      _, exec_nmienR_eq _, returned_nmiPortRead _ true, sameUnits_nmiPortRead_twice s true⟩,
    ⟨_, exec_nmidisR_eq s, returned_nmiPortRead s false, rfl, rfl, rfl, rfl,
      _, exec_nmidisR_eq _, returned_nmiPortRead _ false, sameUnits_nmiPortRead_twice s false⟩⟩

/-! ## What the next state of each unit depends on (R209)

Each unit's next state as a function of the transaction and of that unit alone; for the FrameStore and the Blitter
this leaves out the blit writes, for the FrameStore also RESET. -/

/-- The sequencer after a transaction that finds it as q. -/
def Sequencer.after (i : Instr) (q : Sequencer) : Sequencer :=
  match i with
  | .tick => q.tick.1
  | .irqenW v => { q with irqEnabled := irqEnabledOf v }
  | .nmienW _ | .nmienR => { q with nmiEnabled := true }
  | .nmidisW _ | .nmidisR => { q with nmiEnabled := false }
  | .reset => State.reset.seq
  | _ => q

/-- The sound decoder after a transaction that finds it as d. -/
def Sound.after (i : Instr) (d : Sound) : Sound :=
  match i with
  | .sndW3Arm v => d.arm v
  | .sndW4Voice v => (d.voice v).1
  | .sndW4Pitch v => d.pitch v
  | .sndW5Confirm v => (d.confirm v).1
  | .sndW6Noise v => (d.noise v).1
  | .audio playV playE => d.audioUpdate playV playE
  | .reset => State.reset.sound
  | _ => d

/-- The FrameStore after a transaction other than a blit write and RESET. -/
def FrameStore.after (i : Instr) (f : FrameStore) : FrameStore :=
  match i with
  | .pixW a v => f.writePixelByte (pixMask a) v
  | .colW c v => f.writeColorByte (colMask c) v
  | .refresh => f.fullRefresh
  | _ => f

/-- The Blitter after a transaction other than a blit write. -/
def Blitter.after (i : Instr) (b : Blitter) : Blitter :=
  match i with
  | .ctrlW v => { ctrl := v, latch := 0x00, collision := false }
  | .reset => State.reset.blit
  | _ => b

section
variable {i : Instr} {s t : State}

theorem exec_seq (h : exec i s = .next t) : t.seq = s.seq.after i := by
  cases i
  all_goals cases h; rfl

theorem exec_sound (h : exec i s = .next t) : t.sound = s.sound.after i := by
  cases i
  all_goals cases h; rfl

/-- RESET's own draw of the ColorPlane is no part of the FrameStore it starts from. -/
theorem exec_picture_of_not_blitWrite (h : exec i s = .next t) (hi : isBlitWrite i = false) :
    (i ≠ .reset → t.frame = s.frame.after i) ∧ t.blit = s.blit.after i := by
  cases i
  case reset => cases h; exact ⟨fun hne => absurd rfl hne, rfl⟩
  case blitW | op0Copy | op1Or | op2OrNotD | op3Set | op4And | op5Keep | op6Xnor | op7NotSOr | op8AndNotD | op9Xor
      | opANotD | opBNand | opCClear | opDNotSAnd | opENor | opFNotS => cases hi
  -- every other transaction is its arm of the two functions
  all_goals cases h; exact ⟨fun _ => rfl, rfl⟩

/-- The logic operation, control byte and operands of a blit write are fixed by the instruction and `ctrl`. -/
theorem exec_of_isBlitWrite (hi : isBlitWrite i = true) (ctrl : Byte) : ∃ combine ctl a v,
    ∀ s : State, s.blit.ctrl = ctrl → exec i s = .next (s.blitWrite combine ctl a v) := by
  cases i
  case blitW a v => exact ⟨alu (controlOp ctrl), ctrl, pixMask a, v, by rintro s rfl; rfl⟩
  case op0Copy | op1Or | op2OrNotD | op3Set | op4And | op5Keep | op6Xnor | op7NotSOr | op8AndNotD | op9Xor
      | opANotD | opBNand | opCClear | opDNotSAnd | opENor | opFNotS => exact ⟨_, _, _, _, fun _ _ => rfl⟩
  all_goals cases hi

end

theorem State.blitWrite_congr {s s' : State} (hframe : s.frame = s'.frame) (hblit : s.blit = s'.blit)
    (combine : Byte → Byte → Byte) (ctl : Byte) (a : PixAddr) (v : Byte) :
    (s.blitWrite combine ctl a v).frame = (s'.blitWrite combine ctl a v).frame ∧
      (s.blitWrite combine ctl a v).blit = (s'.blitWrite combine ctl a v).blit := by
  simp only [State.blitWrite, State.withFrame_frame, State.withBlit_frame, State.withBlit_blit, hframe, hblit,
    and_self]

/-- In two runs of one blit write from the same FrameStore and Blitter, both end the same. -/
theorem exec_blitWrite_congr {i : Instr} {s s' t t' : State} (h : exec i s = .next t) (h' : exec i s' = .next t')
    (hi : isBlitWrite i = true) (hframe : s.frame = s'.frame) (hblit : s.blit = s'.blit) :
    t.frame = t'.frame ∧ t.blit = t'.blit := by
  obtain ⟨combine, ctl, a, v, hexec⟩ := exec_of_isBlitWrite hi s'.blit.ctrl
  rw [hexec s (congrArg Blitter.ctrl hblit)] at h
  rw [hexec s' rfl] at h'
  cases h
  cases h'
  exact State.blitWrite_congr hframe hblit combine ctl a v

theorem exec_reset_frame {s t : State} (h : exec .reset s = .next t) :
    t.frame = { pix := [], col := [], colDraw := s.draws, fb := [] } := by
  cases h
  rfl

/-- Settles O50: each unit's next state is a function of what the clause fixes. -/
theorem unitsAreIndependentButForBlitAndReset : Obligations.UnitsAreIndependentButForBlitAndReset := by
  intro i s s' t t' h h'
  refine ⟨fun hseq => ?_, fun hsound => ?_, fun hi hreset hframe => ?_, fun hi hblit => ?_,
    exec_blitWrite_congr h h', ?_⟩
  · rw [exec_seq h, exec_seq h', hseq]
  · rw [exec_sound h, exec_sound h', hsound]
  · rw [(exec_picture_of_not_blitWrite h hi).1 hreset, (exec_picture_of_not_blitWrite h' hi).1 hreset, hframe]
  · rw [(exec_picture_of_not_blitWrite h hi).2, (exec_picture_of_not_blitWrite h' hi).2, hblit]
  · rintro rfl hdraws
    rw [exec_reset_frame h, exec_reset_frame h', hdraws]

end Sys2Proof.Machine

/-! # The SoundTriggerDecoder (spec/43_sound_decoder.md)

What each sound write leaves, by the offset, the audio update, and the death protocol's three writes. -/

namespace Sys2Proof.Machine

/-! ## CONFIRM (R225 to R227) -/

/-- An armed pattern is the confirm byte, whichever protocol is armed (R46). -/
theorem patternByte_eq_some_iff (p : Pending) (v : Byte) : patternByte p = some v ↔ p ≠ .idle ∧ v = 25 := by
  cases p
  case idle => simp [patternByte]
  case awaitDeathConfirm | awaitLaserResetConfirm => simp [patternByte, Config.confirmByte, eq_comm]

theorem Sound.confirm_of_awaitDeathConfirm {d : Sound} (harmed : d.pending = .awaitDeathConfirm) : d.confirm 25 =
    ({ d with pending := .idle, deathPhase := .playing, lastNoiseCode := 64 },
      [.startSample Config.effectChannel Config.sampleRealDeath]) := by
  have hpattern : patternByte d.pending = some 25 := (patternByte_eq_some_iff _ _).2 ⟨by simp [harmed], rfl⟩
  rw [Sound.confirm, Sound.confirmAction, if_pos hpattern, harmed]
  rfl

theorem Sound.confirm_of_awaitLaserResetConfirm {d : Sound} (harmed : d.pending = .awaitLaserResetConfirm) :
    d.confirm 25 = ({ d with pending := .idle, lastNoiseCode := 64 }, []) := by
  have hpattern : patternByte d.pending = some 25 := (patternByte_eq_some_iff _ _).2 ⟨by simp [harmed], rfl⟩
  rw [Sound.confirm, Sound.confirmAction, if_pos hpattern, harmed]
  rfl

theorem Sound.confirm_of_no_pattern {d : Sound} {v : Byte} (h : d.pending = .idle ∨ v ≠ 25) :
    d.confirm v = ({ d with pending := .idle }, []) := by
  have hpattern : ¬ patternByte d.pending = some v := by rw [patternByte_eq_some_iff]; tauto
  rw [Sound.confirm, Sound.confirmAction, if_neg hpattern]

/-- Settles O45: a case of `Sound.confirm` per clause. -/
theorem confirmActsOnlyOnThePattern : Obligations.ConfirmActsOnlyOnThePattern := by
  refine fun v s => ⟨_, exec_sndW5Confirm v s, ?_, ?_, fun hnone => ?_, rfl, rfl, rfl, rfl, rfl⟩
  · rintro ⟨harmed, rfl⟩
    rw [Sound.confirm_of_awaitDeathConfirm harmed]
    exact ⟨rfl, rfl⟩
  · rintro ⟨harmed, rfl⟩
    rw [Sound.confirm_of_awaitLaserResetConfirm harmed]
    exact ⟨rfl, List.append_nil _⟩
  · rw [Sound.confirm_of_no_pattern hnone]
    exact ⟨rfl, List.append_nil _⟩

/-! ## NOISE (R228) -/

theorem Sound.noise_of_changed {d : Sound} {v : Byte} (hband : Config.noiseBand v = true)
    (hchanged : v ≠ d.lastNoiseCode) : d.noise v =
    ({ d with lastNoiseCode := v, deathPhase := Config.noisePhase v d.deathPhase }, noiseCommands v d.deathPhase) := by
  simp only [Sound.noise, if_pos hband, if_neg hchanged]

theorem Sound.noise_of_ignored {d : Sound} {v : Byte} (h : Config.noiseBand v = false ∨ v = d.lastNoiseCode) :
    d.noise v = (d, []) := by
  obtain hband | rfl := h
  · simp [Sound.noise, hband]
  · simp [Sound.noise]

theorem noiseCommands_of_some {code : Byte} {phase : DeathPhase} {ch id : Int}
    (h : Config.noiseSample code phase = some (ch, id)) : noiseCommands code phase = [.startSample ch id] := by
  simp only [noiseCommands, h]

theorem noiseCommands_of_none {code : Byte} {phase : DeathPhase} (h : Config.noiseSample code phase = none) :
    noiseCommands code phase = [] := by
  simp only [noiseCommands, h]

/-- A sound update that changes no register and sends no command changes nothing. -/
@[simp] theorem State.soundStep_same (s : State) : s.soundStep (s.sound, []) = s := by
  simp [State.soundStep, State.withSound, State.emitCommands]

/-- Settles O46: an accepted code is `Sound.noise_of_changed`, with the commands by its table entry, and any other is
`Sound.noise_of_ignored`. -/
theorem noiseAcceptsAChangedCode : Obligations.NoiseAcceptsAChangedCode := by
  refine fun v s => ⟨_, exec_sndW6Noise v s, ?_, fun hignored => ?_, rfl, rfl, rfl, rfl, rfl⟩
  · rintro ⟨hband, hchanged⟩
    rw [Sound.noise_of_changed hband hchanged]
    refine ⟨rfl, ?_⟩
    cases hsample : Config.noiseSample v s.sound.deathPhase with
    | none => simp [noiseCommands_of_none hsample]
    | some request => simp [noiseCommands_of_some hsample]
  · rw [Sound.noise_of_ignored hignored, State.soundStep_same]

/-! ## ARM (R222) -/

theorem Sound.arm_pending (d : Sound) (v : Byte) : (d.arm v).pending =
    if d.lastNoiseCode = 70 ∧ v = 172 then .awaitDeathConfirm
    else if d.lastNoiseCode = 69 ∧ v = 50 then .awaitLaserResetConfirm
    else d.pending := by
  simp only [Sound.arm, apply_ite Sound.pending]
  rfl

/-- Settles O42: ARM writes `pending` alone, and `Sound.arm_pending` says what it becomes. -/
theorem armWritesPending : Obligations.ArmWritesPending := fun v s =>
  ⟨_, exec_sndW3Arm v s, by rw [State.withSound_sound, Sound.arm_eq, Sound.arm_pending],
    rfl, rfl, rfl, rfl, rfl, rfl⟩

/-! ## The death protocol (R226, V-SRC-9) -/

/-- A code of the band is the last noise code after its write, whether it was a change or not. -/
theorem Sound.noise_lastNoiseCode (d : Sound) {v : Byte} (hband : Config.noiseBand v = true) :
    (d.noise v).1.lastNoiseCode = v := by
  by_cases hsame : v = d.lastNoiseCode
  · rw [Sound.noise_of_ignored (.inr hsame), hsame]
  · rw [Sound.noise_of_changed hband hsame]

theorem Sound.noise_commands_cases (d : Sound) (v : Byte) : (d.noise v).2 = [] ∨
    ∃ ch id, Config.noiseSample v d.deathPhase = some (ch, id) ∧ (d.noise v).2 = [.startSample ch id] := by
  by_cases hignored : Config.noiseBand v = false ∨ v = d.lastNoiseCode
  · exact .inl (by rw [Sound.noise_of_ignored hignored])
  · push Not at hignored
    rw [Sound.noise_of_changed (by simpa using hignored.1) hignored.2]
    cases hsample : Config.noiseSample v d.deathPhase with
    | none => exact .inl (noiseCommands_of_none hsample)
    | some request => exact .inr ⟨_, _, rfl, noiseCommands_of_some hsample⟩

/-- The noise write leaves code 70 whatever was there, so the arm byte arms the death pattern and the confirm byte takes
the death action. -/
theorem Sound.confirm_arm_noise (d : Sound) : ((d.noise 70).1.arm 172).confirm 25 =
    ({ d with pending := .idle, deathPhase := .playing, lastNoiseCode := 64 },
      [.startSample Config.effectChannel Config.sampleRealDeath]) := by
  have hcode : (d.noise 70).1.lastNoiseCode = 70 := d.noise_lastNoiseCode rfl
  have harmed : ((d.noise 70).1.arm 172).pending = .awaitDeathConfirm := by
    rw [Sound.arm_pending, if_pos ⟨hcode, rfl⟩]
  rw [Sound.confirm_of_awaitDeathConfirm harmed, Sound.arm_eq, Sound.noise_eq]

/-- Settles O48: the last write's outcome is `Sound.confirm_arm_noise`, and only the first can send a command before
it. -/
theorem deathProtocolPlaysRealDeath : Obligations.DeathProtocolPlaysRealDeath := by
  intro s
  refine ⟨_, (execAll_cons _ (exec_sndW6Noise 70 s)).trans
    ((execAll_cons _ (exec_sndW3Arm 172 _)).trans (execAll_cons _ (exec_sndW5Confirm 25 _))), ?_⟩
  simp only [State.withSound_sound, State.soundStep_sound]
  rw [Sound.confirm_arm_noise]
  refine ⟨rfl, rfl, rfl, rfl, rfl, (s.sound.noise 70).2.map .command, rfl, ?_⟩
  obtain hnone | ⟨ch, id, hsample, hstart⟩ := s.sound.noise_commands_cases 70
  · exact .inl (by rw [hnone, List.map_nil])
  · exact .inr ⟨ch, id, hsample, by rw [hstart, List.map_singleton]⟩

/-! ## The ignored offsets (R221) -/

/-- Settles O41: the arms of offsets 0, 1 and 2. -/
theorem ignoredSoundOffsets : Obligations.IgnoredSoundOffsets := fun v s =>
  ⟨exec_sndW0 v s, exec_sndW1 v s, exec_sndW2 v s⟩

/-! ## VOICE and PITCH (R223, R224) -/

theorem Sound.voice_of_playing {d : Sound} (hplaying : d.deathPhase = .playing) (v : Byte) :
    d.voice v = ({ d with lastVoiceCode := voiceIndex v }, []) := by
  rw [Sound.voice, if_pos hplaying]

theorem Sound.voice_of_not_playing {d : Sound} (hplaying : d.deathPhase ≠ .playing) (v : Byte) :
    d.voice v = ({ d with lastVoiceCode := voiceIndex v, voiceBusy := true },
      [.setFrequency Config.voiceChannel d.voiceFrequencyHz,
        .startSample Config.voiceChannel (Config.voiceSampleId (voiceIndex v))]) := by
  rw [Sound.voice, if_neg hplaying]

/-- Settles O43: a case of `Sound.voice` per clause. -/
theorem voiceTriggersUnlessPlaying : Obligations.VoiceTriggersUnlessPlaying := by
  refine fun v s => ⟨_, exec_sndW4Voice v s, fun hplaying => ?_, fun hplaying => ?_, rfl, rfl, rfl, rfl, rfl⟩
  · simp [Sound.voice_of_not_playing hplaying, voiceIndex]
  · simp [Sound.voice_of_playing hplaying, voiceIndex]

theorem pitchIndex_eq_ofNat (v : Byte) : pitchIndex v = BitVec.ofNat 3 (v.toNat % 8) := by
  apply BitVec.eq_of_toNat_eq
  simp [pitchIndex]

/-- Settles O44: PITCH writes the voice frequency alone, and its index is the byte modulo 8. -/
theorem pitchSelectsAPreset : Obligations.PitchSelectsAPreset := fun v s =>
  ⟨_, exec_sndW4Pitch v s, by rw [State.withSound_sound, Sound.pitch, pitchIndex_eq_ofNat],
    rfl, rfl, rfl, rfl, rfl, rfl⟩

/-! ## AUDIO (R230) -/

theorem Sound.audioUpdate_voiceBusy (d : Sound) (playV playE : Bool) :
    (d.audioUpdate playV playE).voiceBusy = (d.voiceBusy && playV) := by
  cases playV
  case false => exact (Bool.and_false _).symm
  case true => exact (Bool.and_true _).symm

/-- Settles O47: `voiceBusy` is kept exactly while the voice channel plays; the phase is the model's own case split. -/
theorem audioUpdateClearsBusyAndPlaying : Obligations.AudioUpdateClearsBusyAndPlaying := fun playV playE s =>
  ⟨_, exec_audio playV playE s, by rw [← Sound.audioUpdate_voiceBusy s.sound playV playE]; rfl,
    rfl, rfl, rfl, rfl, rfl, rfl⟩

end Sys2Proof.Machine

/-! # No transaction fails, and the one refusal (spec/60_exceptions.md) -/

namespace Sys2Proof

/-! ## The constraint on a configuration (R251) -/

theorem ConfigRecord.wellFormed_iff (c : ConfigRecord) : c.wellFormed = true ↔
    69 ∈ c.noiseBand ∧ 70 ∈ c.noiseBand ∧ c.pitchTable.length = 8 := by
  simp [ConfigRecord.wellFormed, Config.laserResetCode, Config.laserCode, and_assoc]

/-- The band of the model's own record holds exactly the codes that `Config.noiseBand` accepts. -/
theorem ConfigRecord.mem_noiseBand_inForce (v : Byte) :
    v ∈ ConfigRecord.inForce.noiseBand ↔ Config.noiseBand v = true := by
  have hlisted : v ∈ (List.range 256).map (BitVec.ofNat 8) :=
    List.mem_map.2 ⟨v.toNat, List.mem_range.2 v.isLt, by simp⟩
  simp only [ConfigRecord.inForce, List.mem_filter, hlisted, true_and]

theorem ConfigRecord.pitchTable_length_inForce : ConfigRecord.inForce.pitchTable.length = 8 := by
  simp [ConfigRecord.inForce]

/-- Whatever the rest of the band is, 69 and 70 are built into it (D25). -/
theorem ConfigRecord.wellFormed_inForce : ConfigRecord.inForce.wellFormed = true :=
  ConfigRecord.inForce.wellFormed_iff.2 ⟨(ConfigRecord.mem_noiseBand_inForce 69).2 rfl,
    (ConfigRecord.mem_noiseBand_inForce 70).2 rfl, ConfigRecord.pitchTable_length_inForce⟩

end Sys2Proof

namespace Sys2Proof.Machine

/-! ## Every transaction completes (R250) -/

/-- Settles O3: the meaning of each transaction is `.next` of a state, and whatever it decides it decides inside that
state. -/
theorem everyTransactionCompletes : Obligations.EveryTransactionCompletes := by
  intro i s
  cases i
  all_goals exact ⟨_, rfl⟩

/-! ## A configuration is accepted or refused as a whole (R251) -/

theorem configure_of_wellFormed {c : ConfigRecord} (h : c.wellFormed = true) : configure c = .next State.reset :=
  if_pos h

theorem configure_of_not_wellFormed {c : ConfigRecord} (h : ¬ c.wellFormed = true) :
    configure c = .refused .badConfiguration :=
  if_neg h

/-- Settles O51: `configure` asks `ConfigRecord.wellFormed` alone, which is the constraint of R251, and the model's own
parameters meet it. -/
theorem badConfigurationIsRefused : Obligations.BadConfigurationIsRefused :=
  ⟨fun c hmeets => configure_of_wellFormed (c.wellFormed_iff.2 hmeets),
    fun c hbreaks => configure_of_not_wellFormed (mt c.wellFormed_iff.1 hbreaks),
    configure_of_wellFormed ConfigRecord.wellFormed_inForce⟩

end Sys2Proof.Machine

/-! # RESET (spec/70_reset_and_hazards.md) -/

namespace Sys2Proof.Machine

/-! ## What a cleared store reads as (R33, R34, R35) -/

theorem FrameStore.readPix_cleared (n : Nat) (a : PixAddr) :
    FrameStore.readPix { pix := [], col := [], colDraw := n, fb := [] } a = 0x00 := rfl

theorem FrameStore.readCol_cleared (n : Nat) (c : ColAddr) :
    FrameStore.readCol { pix := [], col := [], colDraw := n, fb := [] } c = Config.colorReset n c.toNat := rfl

theorem FrameStore.readFb_cleared (n y x : Nat) :
    FrameStore.readFb { pix := [], col := [], colDraw := n, fb := [] } y x = 0 := rfl

/-! ## The first TICK after RESET (R280) -/

/-- Phase 0 makes the first candidate non-maskable, and the disabled latch withholds it. -/
theorem reset_tick : State.reset.seq.tick =
    ({ phase := 1, irqEnabled := false, nmiEnabled := false, endOfScreen := false }, .none) := by
  decide

/-- The sequencer restarts whatever its phase and latches were; the request follows the outputs already emitted. -/
theorem execTick_machineReset (s : State) : ∃ u, exec .tick s.machineReset = .next u ∧
    u.seq.phase = 1 ∧ u.out = s.out ++ [.request .none] := by
  refine ⟨_, exec_tick _, ?_, ?_⟩
  · rw [State.deliver_seq, State.withSeq_seq, State.machineReset_seq, reset_tick]
  · rw [State.deliver_out, State.withSeq_out, State.machineReset_out, State.machineReset_seq, reset_tick]

/-- Settles O8: the planes and the framebuffer are those of a cleared store with this reset's draw, the other units are
those of `State.reset`, and the TICK is `execTick_machineReset`. -/
theorem resetClearsTheBlock : Obligations.ResetClearsTheBlock := by
  intro s
  refine ⟨s.machineReset, exec_reset s, ?_, ?_, ?_, s.machineReset_blit, s.machineReset_seq, s.machineReset_sound,
    s.machineReset_out, s.machineReset_host, execTick_machineReset s⟩
  all_goals rw [State.machineReset_frame]
  · exact FrameStore.readPix_cleared s.draws
  · exact FrameStore.readCol_cleared s.draws
  · exact FrameStore.readFb_cleared s.draws

end Sys2Proof.Machine
